-- ==== Sys2Proof/Word.lean ====
section
/-! DEFINITION. The bit-vector types of the block. Every register, port and field is an unsigned bit vector whose
bit 0 is the least significant (00_scope.md R7). -/

namespace Sys2Proof

/-- XLEN = 64: operands, result registers and the halves of a 128-bit value (00_scope.md R6). -/
abbrev Word := BitVec 64

/-- OP_W = 2: the operation select (30_encoding.md R36). -/
abbrev OpSel := BitVec 2

/-- DIST_W = 8: the distance field (30_encoding.md R36). -/
abbrev Dist := BitVec 8

/-- CMD_W = 138: a packed command (30_encoding.md R37). -/
abbrev CmdWord := BitVec 138

end Sys2Proof
end

