-- ==== Sys2Proof/Config.lean ====
section
/-! DEFINITION. The fixed parameters of the block (00_scope.md R6) and its free values (00_scope.md R9). -/

namespace Sys2Proof.Config

/-- DIST_MOD, the modulus of the shift distance (R6, 41_shr128.md R53). -/
def distMod : Nat := 64

/-- MODULUS = 10^9, the divisor wired into MOD1E9 (R6, 42_mod1e9.md R57). -/
def modulus : Nat := 1000000000

/-- `unspecified_64` (R9): the n-th value about which the spec promises nothing, "not even that two reads agree".
DESIGN CHOICE, log entries 1, 2 and 8: an opaque function with no body, applied to the counter `State.draws`.
Safe where it is drawn afresh (entries 1 and 8); its use in the one state `State.reset` is unsafe (entry 2). -/
opaque freeWord : Nat → Word

end Sys2Proof.Config
end

