-- ==== Sys2Proof/Syntax.lean ====
section
/-! DEFINITION. Commands as they stand on the port (30_encoding.md R36), instructions as the decoder gives them (R47),
and the assembler's lines (R45, R46) as abstract syntax. -/

namespace Sys2Proof

/-- A command: the record of the four fields on the four input ports (30_encoding.md R36). -/
structure Command where
  /-- `op[1:0]`, the operation select (R38). -/
  op : OpSel
  /-- `dist[7:0]`, the shift distance, read by SHR128 only. -/
  dist : Dist
  /-- `b[63:0]`, the second factor, or the high half of a 128-bit operand. -/
  b : Word
  /-- `a[63:0]`, the first factor, or the low half of a 128-bit operand. -/
  a : Word
deriving DecidableEq, Repr

/-- The instructions: one constructor per row of the opcode table, holding the operands that the row reads and none of
the fields it ignores (30_encoding.md R40, R47). -/
inductive Instr where
  /-- MUL64 x, y (40_mul64.md R48). -/
  | mul64 (x y : Word)
  /-- SHR128 hi, lo, d (41_shr128.md R52). -/
  | shr128 (hi lo : Word) (dist : Dist)
  /-- MOD1E9 hi, lo (42_mod1e9.md R57). -/
  | mod1e9 (hi lo : Word)
  /-- .reserved, the illegal encoding op = 11 (60_exceptions.md R64). -/
  | reserved
deriving DecidableEq, Repr

/-- Where a numeral may stand in an assembler line: the numeral, or a host name bound by an earlier line
(30_encoding.md R46). -/
inductive Operand where
  | numeral (n : Nat)
  | name (id : String)
deriving DecidableEq, Repr

/-- The four line forms of the assembler, operands in the order they are written (30_encoding.md R45). -/
inductive AsmCmd where
  | mul64 (x y : Operand)
  | shr128 (hi lo d : Operand)
  | mod1e9 (hi lo : Operand)
  | reserved
deriving DecidableEq, Repr

/-- One line of a listing: a command and the host names that its results are bound to, `-> H, L` after MUL64 and
`-> N` after SHR128 or MOD1E9 (30_encoding.md R46). -/
structure Line where
  cmd : AsmCmd
  binds : List String
deriving DecidableEq, Repr

end Sys2Proof
end

