-- ==== Sys2Proof/WellFormed.lean ====
section
/-! DEFINITION. What the assembler checks of a line and of a listing before anything runs (30_encoding.md R45, R46).
An `Instr` needs no check: its operands are bit vectors of their ports' widths, and every value of them is legal
(30_encoding.md R41). -/

namespace Sys2Proof

/-- An operand's numeral lies below `bound`, and a name has been bound by an earlier line (R45, R46). -/
def Operand.wellFormed (bound : Nat) (names : List String) : Operand → Bool
  | .numeral n => decide (n < bound)
  | .name id => names.contains id

/-- The numerals of a line are in range: 64-bit operands in 0 .. 2^64 - 1, the distance in 0 .. 255; names are bound (R45,
R46). -/
def AsmCmd.wellFormed (names : List String) : AsmCmd → Bool
  | .mul64 x y => x.wellFormed (2 ^ 64) names && y.wellFormed (2 ^ 64) names
  | .shr128 hi lo d =>
      hi.wellFormed (2 ^ 64) names && lo.wellFormed (2 ^ 64) names && d.wellFormed 256 names
  | .mod1e9 hi lo => hi.wellFormed (2 ^ 64) names && lo.wellFormed (2 ^ 64) names
  | .reserved => true

/-- A trailing arrow binds two names after MUL64, one after SHR128 or MOD1E9; it may be absent, and the reserved command has
no result to bind (R46). -/
def Line.bindsWellFormed (l : Line) : Bool :=
  match l.cmd with
  | .mul64 _ _ => l.binds.length == 0 || l.binds.length == 2
  | .shr128 _ _ _ => l.binds.length == 0 || l.binds.length == 1
  | .mod1e9 _ _ => l.binds.length == 0 || l.binds.length == 1
  | .reserved => l.binds.length == 0

/-- A line is well-formed where the given names are bound. -/
def Line.wellFormed (names : List String) (l : Line) : Bool :=
  l.cmd.wellFormed names && l.bindsWellFormed

/-- Every line of a listing is well-formed under the names that the lines before it bind (R46: "a later line may use a
bound name where a numeral may stand"). -/
def listingWellFormed : List String → List Line → Bool
  | _, [] => true
  | names, l :: rest => l.wellFormed names && listingWellFormed (l.binds ++ names) rest

end Sys2Proof
end

