-- ==== Sys2Proof/Decode.lean ====
section
/-! DEFINITION. The packed form of a command, the decoder, the encoder and the assembler (30_encoding.md R37, R38, R45,
R47). -/

namespace Sys2Proof

/-! ### Select codes (R38) -/

/-- op = 00. -/
def opMul64 : OpSel := 0b00#2
/-- op = 01. -/
def opShr128 : OpSel := 0b01#2
/-- op = 10. -/
def opMod1e9 : OpSel := 0b10#2
/-- op = 11, the reserved value. -/
def opReserved : OpSel := 0b11#2

/-- The one illegal encoding class: op = 11 with any other fields (R41). -/
def Command.isReserved (c : Command) : Bool := decide (c.op = opReserved)

/-! ### The packed form (R37) -/

/-- `CMD = {op, dist, b, a}`, the first in the most significant place (R37, R7). -/
def Command.pack (c : Command) : CmdWord := c.op ++ c.dist ++ c.b ++ c.a

/-- The four fields of a packed command: op in 137:136, dist in 135:128, b in 127:64, a in 63:0 (R37). -/
def Command.unpack (w : CmdWord) : Command where
  op := w.extractLsb' 136 2
  dist := w.extractLsb' 128 8
  b := w.extractLsb' 64 64
  a := w.extractLsb' 0 64

/-! ### Decoding (R47) -/

/-- The decoder, total on commands; it needs only `op` and forgets the ignored fields (R47). -/
def decode (c : Command) : Instr :=
  if c.op = opMul64 then .mul64 c.a c.b
  else if c.op = opShr128 then .shr128 c.b c.a c.dist
  else if c.op = opMod1e9 then .mod1e9 c.b c.a
  else .reserved

/-- The decoder on a packed command: every 138-bit vector decodes (R47). -/
def decodeWord (w : CmdWord) : Instr := decode (Command.unpack w)

/-- Why a numeral is not a command. -/
inductive DecodeRefusal where
  /-- The numeral has a bit set above bit 137, where a command has none (R37).
  Raised by `commandOfNumeral`. Safe (log entry 11). -/
  | bitsAboveCommand
deriving DecidableEq, Repr

/-- A packed command is written down as one numeral (R37): a numeral of more than 138 bits is no command. -/
def commandOfNumeral (n : Nat) : Except DecodeRefusal Command :=
  if n < 2 ^ 138 then .ok (Command.unpack (BitVec.ofNat 138 n)) else .error .bitsAboveCommand

/-- The decoder on numerals, total: an instruction, or a refusal by name. -/
def decodeNumeral (n : Nat) : Except DecodeRefusal Instr :=
  match commandOfNumeral n with
  | .ok c => .ok (decode c)
  | .error e => .error e

/-- The command that the low `nbits` bits of `w` are, bits numbered as in the opcode table; every bit from `nbits` on
reads as 0. -/
def commandOfTableWord (nbits w : Nat) : Option Command :=
  match commandOfNumeral (w % 2 ^ nbits) with
  | .ok c => some c
  | .error _ => none

/-- The instruction that the decoder reads from the low `nbits` bits of `w`, bits numbered as in the opcode table. -/
def decodeTableWord (nbits w : Nat) : Option Instr :=
  match decodeNumeral (w % 2 ^ nbits) with
  | .ok i => some i
  | .error _ => none

/-! ### Encoding (R45, R47) -/

/-- The canonical command of an instruction: the fields it ignores are 0 (R45, R47). -/
def encode : Instr → Command
  | .mul64 x y => { op := opMul64, dist := 0, b := y, a := x }
  | .shr128 hi lo dist => { op := opShr128, dist := dist, b := hi, a := lo }
  | .mod1e9 hi lo => { op := opMod1e9, dist := 0, b := hi, a := lo }
  | .reserved => { op := opReserved, dist := 0, b := 0, a := 0 }

/-- The canonical packed command of an instruction. -/
def encodeWord (i : Instr) : CmdWord := (encode i).pack

/-- A command with the fields that its operation ignores set to 0 (R40, R47). `dist[7:6]` of a SHR128 stay: they are part
of an operand that the decoder keeps. -/
def Command.canonical (c : Command) : Command :=
  if c.op = opMul64 then { c with dist := 0 }
  else if c.op = opShr128 then c
  else if c.op = opMod1e9 then { c with dist := 0 }
  else { c with dist := 0, b := 0, a := 0 }

/-! ### The assembler (R45, R46) -/

/-- The host's names and what they are bound to, latest first (R46). -/
abbrev Names := List (String × Word)

/-- Why the assembler refuses a line. -/
inductive AsmRefusal where
  /-- A 64-bit operand outside 0 .. 2^64 - 1 (R45). Raised by `assemble`. Safe. -/
  | operandOutOfRange
  /-- A distance outside 0 .. 255, as a numeral or as the value of a name (R45). Raised by `assemble`. Safe. -/
  | distanceOutOfRange
  /-- A name that no earlier line binds (R46). Raised by `assemble`. Safe. -/
  | unboundName
deriving DecidableEq, Repr

/-- The number an operand stands for: the host substitutes a name's value before the command is issued (R46). -/
def Operand.value (names : Names) : Operand → Except AsmRefusal Nat
  | .numeral n => .ok n
  | .name id =>
      match names.lookup id with
      | some w => .ok w.toNat
      | none => .error .unboundName

/-- A 64-bit operand; "an assembler refuses a numeral outside its range" (R45). -/
def Operand.word (names : Names) (o : Operand) : Except AsmRefusal Word :=
  match o.value names with
  | .ok n => if n < 2 ^ 64 then .ok (BitVec.ofNat 64 n) else .error .operandOutOfRange
  | .error e => .error e

/-- A distance operand, in 0 .. 255 (R45). -/
def Operand.dist (names : Names) (o : Operand) : Except AsmRefusal Dist :=
  match o.value names with
  | .ok n => if n < 2 ^ 8 then .ok (BitVec.ofNat 8 n) else .error .distanceOutOfRange
  | .error e => .error e

/-- The instruction of an assembler line (R45): a 128-bit operand is written high half first. -/
def assembleInstr (names : Names) : AsmCmd → Except AsmRefusal Instr
  | .mul64 x y =>
      match x.word names, y.word names with
      | .ok x, .ok y => .ok (.mul64 x y)
      | .error e, _ => .error e
      | _, .error e => .error e
  | .shr128 hi lo d =>
      match hi.word names, lo.word names, d.dist names with
      | .ok hi, .ok lo, .ok d => .ok (.shr128 hi lo d)
      | .error e, _, _ => .error e
      | _, .error e, _ => .error e
      | _, _, .error e => .error e
  | .mod1e9 hi lo =>
      match hi.word names, lo.word names with
      | .ok hi, .ok lo => .ok (.mod1e9 hi lo)
      | .error e, _ => .error e
      | _, .error e => .error e
  | .reserved => .ok .reserved

/-- The command of an assembler line, after the host's substitution; ignored fields are 0 (R45, R46). -/
def assemble (names : Names) (l : AsmCmd) : Except AsmRefusal Command :=
  match assembleInstr names l with
  | .ok i => .ok (encode i)
  | .error e => .error e

end Sys2Proof
end

