-- ==== Sys2Proof/Machine/State.lean ====
section
/-! DEFINITION. The state of one instance of the block (10_state.md R13), the moves of the parties that act on it
(70_reset_and_hazards.md R87), the reasons a step can stop, and the state after reset (10_state.md R24). -/

namespace Sys2Proof.Machine

/-- The moves of 70_reset_and_hazards.md R87: the host issues and reads, the block completes, the environment resets.
"A move not in the table does not exist." -/
inductive Move where
  /-- The host raises `start` with the command's fields on the port (R80). -/
  | issue (c : Command)
  /-- The host reads the three status wires (R20). -/
  | readStatus
  /-- The host reads `R_HI` (R82). -/
  | readHi
  /-- The host reads `R_LO` (R82). -/
  | readLo
  /-- The block's turn: it completes the pending command, if there is one (R80). -/
  | block
  /-- The environment raises `rst` (R75). -/
  | reset
deriving DecidableEq, Repr

/-- What a host read answered, as the host copied it (R84, R86). -/
inductive Reading where
  | status (v : BitVec 3)
  | hi (v : Word)
  | lo (v : Word)
deriving DecidableEq, Repr

/-- One instance of the block. The first five fields are the five items of 10_state.md R13; the last three are the model's
own and stand for what acts on the block (log entries 3, 5, 9). -/
structure State where
  /-- `R_HI`, the result register of the high half (R16). -/
  rHi : Word
  /-- `R_LO`, the result register of the low half (R15). -/
  rLo : Word
  /-- `VALID` (R17). -/
  valid : Bool
  /-- `ERR`, sticky (R19). -/
  err : Bool
  /-- `PEND` (R22): the latched command while the busy bit is 1, `none` while it is 0 (U8; log entry 4). -/
  pend : Option Command
  /-- What the host and the environment will do, oldest first (R18, R86). DESIGN CHOICE, log entry 5. -/
  todo : List Move
  /-- What the host has copied out, newest last (R84, R86). DESIGN CHOICE, log entry 9. -/
  copies : List Reading
  /-- How many free values have been drawn; the next is `Config.freeWord draws`. DESIGN CHOICE, log entry 3. -/
  draws : Nat
deriving DecidableEq, Repr

/-- The reasons for a stop that the hardware itself would report: there are none. A legal command raises no fault
(60_exceptions.md R63), and ReservedOp sets a flag and lets the machine go on (R64, R65), so it is a next state. -/
inductive Fault where
deriving DecidableEq, Repr

/-- The reasons for which the model gives a step no meaning. -/
inductive Refusal where
  /-- An instruction that has no meaning in this model. Raised by `exec`'s rejected arms; there are none. Safe. -/
  | notModelled (mnemonic : String)
  /-- The host raises `start` while the busy bit is 1, a move to which the spec gives no meaning (R81, U3).
  Raised by `hostIssue`. Safe (log entry 7). -/
  | startWhileBusy
  /-- The host reads `R_HI` or `R_LO` while `VALID` = 0, where they hold no defined value (R82, U2).
  Raised by `hostReadHi` and `hostReadLo`. Safe (log entry 8). -/
  | readWhileInvalid
deriving DecidableEq, Repr

/-- The machine right after reset (R24, R75): both flags 0, not busy; the result registers hold values about which nothing
is known (DESIGN CHOICE, log entry 2: the spec gives none and forbids taking them for 0). -/
def State.reset : State where
  rHi := Config.freeWord 0
  rLo := Config.freeWord 1
  valid := false
  err := false
  pend := none
  todo := []
  copies := []
  draws := 2

end Sys2Proof.Machine
end

