-- ==== Sys2Proof/Machine/Operands.lean ====
section
/-! DEFINITION. The operand forms and the exact integer expressions of the three operations: halves of 128-bit values
(20_memory.md R27), the effective distance (41_shr128.md R53), the product, the shifted value and the remainder. -/

namespace Sys2Proof.Machine

/-- `v = hi * 2^64 + lo` (R27). -/
def wide (hi lo : Word) : Nat := hi.toNat * 2 ^ 64 + lo.toNat

/-- `v[63:0]`, that is `v mod 2^64` (R27, R48). -/
def lowHalf (v : Nat) : Word := BitVec.ofNat 64 (v % 2 ^ 64)

/-- `v[127:64]` of a value below 2^128, that is `floor(v / 2^64)` (R27, R48). -/
def highHalf (v : Nat) : Word := BitVec.ofNat 64 (v / 2 ^ 64)

/-- `d = dist mod 64` (R53). -/
def effectiveDist (d : Dist) : Nat := d.toNat % Config.distMod

/-- `p = x * y`, exact and unsigned (R48, R50). -/
def product (x y : Word) : Nat := x.toNat * y.toNat

/-- `s = floor(v / 2^d)`, exact: zeros enter at the top (R52). -/
def shifted (hi lo : Word) (dist : Dist) : Nat := wide hi lo / 2 ^ effectiveDist dist

/-- `r = v mod 10^9`, exact for every v (R57, R60; 90_conflicts.md C1: exactness wins over the source's method). -/
def remainder (hi lo : Word) : Nat := wide hi lo % Config.modulus

end Sys2Proof.Machine
end

