-- ==== Sys2Proof/Machine/Flags.lean ====
section
/-! DEFINITION. The status view and the output ports (10_state.md R20, 30_encoding.md R44, 70_reset_and_hazards.md R79).
The block computes no arithmetic flags: there is no carry, overflow, zero or sign flag (10_state.md R19). -/

namespace Sys2Proof.Machine

/-- The busy bit of `PEND` (R22). -/
def State.busy (s : State) : Bool := s.pend.isSome

/-- `STATUS`, three bits: bit 0 is VALID, bit 1 is ERR, bit 2 is the busy bit (R20). -/
def State.status (s : State) : BitVec 3 :=
  BitVec.ofBool s.busy ++ BitVec.ofBool s.err ++ BitVec.ofBool s.valid

/-- The five output ports (R44, R79). The result ports carry a value only while VALID = 1: in the other states a model gives
them none (70_reset_and_hazards.md R82, U2). -/
structure Outputs where
  /-- `r_hi`, `none` while VALID = 0. -/
  rHi : Option Word
  /-- `r_lo`, `none` while VALID = 0. -/
  rLo : Option Word
  valid : Bool
  err : Bool
  busy : Bool
deriving DecidableEq, Repr

/-- What the block shows on its output ports (R79, R82). -/
def State.outputs (s : State) : Outputs where
  rHi := if s.valid then some s.rHi else none
  rLo := if s.valid then some s.rLo else none
  valid := s.valid
  err := s.err
  busy := s.busy

end Sys2Proof.Machine
end

