-- ==== Sys2Proof/Machine/Ops.lean ====
section
/-! DEFINITION. The shared operations over the state: writing a result, raising ReservedOp (the one exception), reset (the
one thing that ends it), latching and releasing a command, and the host's moves. -/

namespace Sys2Proof.Machine

open Host (Outcome)

/-- Completion of a legal command: both result registers and VALID in one step (10_state.md R15 to R17, 20_memory.md
R31); ERR is not touched (10_state.md R19). -/
def writeResult (hi lo : Word) (s : State) : State :=
  { s with rHi := hi, rLo := lo, valid := true }

/-- The result registers hold no defined value from here on (70_reset_and_hazards.md R82, U2): each gets a free value drawn
afresh, `unspecified_64` (00_scope.md R9). DESIGN CHOICE, log entries 1 and 8. -/
def forgetResults (s : State) : State :=
  { s with
    rHi := Config.freeWord s.draws
    rLo := Config.freeWord (s.draws + 1)
    draws := s.draws + 2 }

/-- `raise ReservedOp` (60_exceptions.md R64): ERR <- 1, VALID <- 0, both result registers unspecified, and nothing else.
There is no handler, no saved state and no change of mode (R69).
Log entry 1: the two unspecified values are free values, drawn afresh. -/
def raiseReservedOp (s : State) : State := { forgetResults s with err := true, valid := false }

/-- The environment's reset (70_reset_and_hazards.md R75, R76): flags 0, a pending command abandoned, the result registers
unspecified. It is the only thing that clears ERR (60_exceptions.md R70). -/
def takeReset (s : State) : State := { forgetResults s with err := false, valid := false, pend := none }

/-- The issue of a command by the handshake (R80): the command is latched, the busy bit set, VALID cleared; until the
completion the result registers hold no defined value (R82; DESIGN CHOICE, log entry 8: two free values). It does not look
at the busy bit: `hostIssue` does. -/
def latch (c : Command) (s : State) : State := { forgetResults s with pend := some c, valid := false }

/-- The busy bit is cleared (R80). -/
def release (s : State) : State := { s with pend := none }

/-- The host copies a reading; the block is not changed (20_memory.md R30). -/
def copyOut (r : Reading) (s : State) : State := { s with copies := s.copies ++ [r] }

/-- The host raises `start` with `c` on the port (R80); while busy that has no meaning (R81, log entry 7). -/
def hostIssue (c : Command) (s : State) : Outcome State Fault Refusal :=
  if s.busy then .refused .startWhileBusy else .next (latch c s)

/-- The host reads STATUS: always enabled (R87). -/
def hostReadStatus (s : State) : Outcome State Fault Refusal := .next (copyOut (.status s.status) s)

/-- The host reads `R_HI`, enabled only while VALID = 1 (R82, log entry 8). -/
def hostReadHi (s : State) : Outcome State Fault Refusal :=
  if s.valid then .next (copyOut (.hi s.rHi) s) else .refused .readWhileInvalid

/-- The host reads `R_LO`, enabled only while VALID = 1 (R82, log entry 8). -/
def hostReadLo (s : State) : Outcome State Fault Refusal :=
  if s.valid then .next (copyOut (.lo s.rLo) s) else .refused .readWhileInvalid

end Sys2Proof.Machine
end

