-- ==== Sys2Proof/Machine/Mod1e9.lean ====
section
/-! DEFINITION. MOD1E9, the remainder unit modulo 10^9 (42_mod1e9.md). -/

namespace Sys2Proof.Machine

open Host (Outcome)

/-- MOD1E9 hi, lo (42_mod1e9.md R57): R_LO <- the remainder, zero-extended, R_HI <- 0, VALID <- 1. -/
def execMod1e9 (hi lo : Word) (s : State) : Outcome State Fault Refusal :=
  .next (writeResult 0 (lowHalf (remainder hi lo)) s)

end Sys2Proof.Machine
end

