-- ==== Sys2Proof/Machine/Mul64.lean ====
section
/-! DEFINITION. MUL64, the 64×64→128 widening multiplier (40_mul64.md). -/

namespace Sys2Proof.Machine

open Host (Outcome)

/-- MUL64 x, y (40_mul64.md R48): R_HI <- p[127:64], R_LO <- p[63:0] of p = x * y, VALID <- 1. -/
def execMul64 (x y : Word) (s : State) : Outcome State Fault Refusal :=
  .next (writeResult (highHalf (product x y)) (lowHalf (product x y)) s)

end Sys2Proof.Machine
end

