-- ==== Sys2Proof/Machine/Reserved.lean ====
section
/-! DEFINITION. The reserved command, op = 11 (30_encoding.md R41, 60_exceptions.md R64). -/

namespace Sys2Proof.Machine

open Host (Outcome)

/-- .reserved (60_exceptions.md R64): its effect is to raise ReservedOp, which is a next state. -/
def execReserved (s : State) : Outcome State Fault Refusal := .next (raiseReservedOp s)

end Sys2Proof.Machine
end

