-- ==== Sys2Proof/Machine/Shr128.lean ====
section
/-! DEFINITION. SHR128, the 128-bit logical right shifter (41_shr128.md). -/

namespace Sys2Proof.Machine

open Host (Outcome)

/-- SHR128 hi, lo, d (41_shr128.md R52): R_LO <- s[63:0] of the shifted value s, R_HI <- 0 (not the high half of s, R56),
VALID <- 1. -/
def execShr128 (hi lo : Word) (dist : Dist) (s : State) : Outcome State Fault Refusal :=
  .next (writeResult 0 (lowHalf (shifted hi lo dist)) s)

end Sys2Proof.Machine
end

