-- ==== Sys2Proof/Machine/Dispatch.lean ====
section
/-! DEFINITION. exec, one arm per constructor of Instr: the `state' = exec(state, cmd)` of 20_memory.md R31. -/

namespace Sys2Proof.Machine

def exec (i : Instr) (s : State) : Host.Outcome State Fault Refusal :=
  match i with
  | .mul64 x y => Sys2Proof.Machine.execMul64 x y s
  | .shr128 hi lo dist => Sys2Proof.Machine.execShr128 hi lo dist s
  | .mod1e9 hi lo => Sys2Proof.Machine.execMod1e9 hi lo s
  | .reserved => Sys2Proof.Machine.execReserved s

end Sys2Proof.Machine
end

