-- ==== Sys2Proof/Machine/Moves.lean ====
section
/-! DEFINITION. The moves of 70_reset_and_hazards.md R87 as one function, the block's own turn among them. -/

namespace Sys2Proof.Machine

open Host (Outcome)

/-- The block's turn (R80, R87): a pending command completes, its results and flags written and the busy bit cleared in one
step (20_memory.md R31); with none pending the block rests and keeps all state (60_exceptions.md R73). -/
def blockTurn (s : State) : Outcome State Fault Refusal :=
  match s.pend with
  | none => .next s
  | some c => exec (decode c) (release s)

/-- One move of one party (R87). -/
def takeMove (m : Move) (s : State) : Outcome State Fault Refusal :=
  match m with
  | .issue c => hostIssue c s
  | .readStatus => hostReadStatus s
  | .readHi => hostReadHi s
  | .readLo => hostReadLo s
  | .block => blockTurn s
  | .reset => .next (takeReset s)

/-- The move that comes next: the oldest listed one, and the block's turn when nothing is listed, so that every issued
command completes (R80; log entries 5, 6). -/
def nextMove (s : State) : Move :=
  match s.todo with
  | [] => .block
  | m :: _ => m

/-- The oldest listed move is taken off the list of what is to come. -/
def dropMove (s : State) : State := { s with todo := s.todo.tail }

/-- The command given is pending and it is the block's turn: what an issue by the host leaves (R80).
DESIGN CHOICE, log entry 5: no test of the busy bit. On a state in which a command is pending, that command is replaced
without completing; this is the placing device's doing and no move of R87, and says nothing of `start` while busy, which
has no meaning (R33, R81) and which `hostIssue` refuses. -/
def pendingTurn (c : Command) (s : State) : State :=
  { latch c s with todo := .block :: s.todo }

end Sys2Proof.Machine
end

