-- ==== Sys2Proof/Machine/Step.lean ====
section
/-! DEFINITION. One step: the next listed move, or the block's turn when nothing is listed. -/

namespace Sys2Proof.Machine

/-- One step of the machine: one move of one party, a row of 70_reset_and_hazards.md R87 (log entries 5, 6). -/
def step (s : State) : Host.Outcome State Fault Refusal := takeMove (nextMove s) (dropMove s)

/-- `s` just after the host has issued the command that the low `nbits` bits of `w` are, with the block to move: the next
step executes exactly that command (log entry 5).
DESIGN CHOICE, log entry 5: on a busy state the placed command replaces the pending one. No move of R87 does that: a `start`
while busy has no meaning (R81) and is refused (log entry 7). A numeral that is no command cannot be put on the port: `s` is
unchanged then (log entry 11). -/
def State.withFetchWord (s : State) (nbits w : Nat) : State :=
  match commandOfTableWord nbits w with
  | some c => pendingTurn c s
  | none => s

end Sys2Proof.Machine
end

