-- ==== Sys2Proof/Machine/Listing.lean ====
section
/-! DEFINITION. Runs of commands (70_reset_and_hazards.md R86) and the host walking a listing with names for results
(30_encoding.md R46, 70_reset_and_hazards.md R84). The list, the index into it and the names are host state (10_state.md
R18). -/

namespace Sys2Proof.Machine

/-- The moves of a host that issues each command and waits for its completion (R33, R81). -/
def commandMoves : List Command → List Move
  | [] => []
  | c :: cs => .issue c :: .block :: commandMoves cs

/-- The two result registers as the host reads them after a completed command, only while VALID = 1 (R82). -/
def readResults (s : State) : Option (Word × Word) :=
  if s.valid then some (s.rHi, s.rLo) else none

/-- The host's names after a line's results are bound: `-> H, L` to R_HI and R_LO, `-> N` to R_LO (R46). No arrow binds
nothing and reads nothing; any other number of names is no line form.
DESIGN CHOICE, log entry 15: an arrow that gives one name twice is accepted, and the name then stands for R_HI, whose binding
is looked up first. -/
def bindResults (binds : List String) (names : Names) (s : State) : Option Names :=
  match binds with
  | [] => some names
  | [n] =>
      match readResults s with
      | some (_, lo) => some ((n, lo) :: names)
      | none => none
  | [h, l] =>
      match readResults s with
      | some (hi, lo) => some ((h, hi) :: (l, lo) :: names)
      | none => none
  | _ => none

/-- One line of a listing (R46): substitute and assemble, issue, wait for completion, bind. `none` where the assembler or
the block refuses the line, or where its arrow has not the form of R46. -/
def runLine (l : Line) (names : Names) (s : State) : Option (Names × State) :=
  if l.bindsWellFormed then
    match assemble names l.cmd with
    | .error _ => none
    | .ok c =>
        match hostIssue c s with
        | .next s1 =>
            match blockTurn s1 with
            | .next s2 =>
                match bindResults l.binds names s2 with
                | some names' => some (names', s2)
                | none => none
            | _ => none
        | _ => none
  else none

/-- A listing, one line after another; the host's index advances by one per command (10_state.md R18). -/
def runListing : List Line → Names → State → Option (Names × State)
  | [], names, s => some (names, s)
  | l :: rest, names, s =>
      match runLine l names s with
      | some (names', s') => runListing rest names' s'
      | none => none

end Sys2Proof.Machine
end

