-- ==== Sys2Proof/Machine/Assembler.lean ====
section
/-! DEFINITION. The spelling of an assembler line (30_encoding.md R45, R46; numerals as in 00_scope.md R7): from the characters
of a line to the abstract line of Syntax.lean. What the spec leaves open of it is log entry 15. -/

namespace Sys2Proof.Machine

/-- The parts of a line of text. -/
inductive Token where
  | word (cs : List Char)
  | comma
  | arrow
deriving DecidableEq, Repr

/-- A word read so far, if it has any character, followed by the rest. -/
def flush (acc : List Char) (rest : List Token) : List Token :=
  match acc with
  | [] => rest
  | _ => .word acc.reverse :: rest

/-- The tokens of one line; `;` starts a comment (R45). `acc` is the word being read, last character first. -/
def tokens : List Char → List Char → List Token
  | [], acc => flush acc []
  | '-' :: '>' :: cs, acc => flush acc (.arrow :: tokens cs [])
  | c :: cs, acc =>
      if c = ';' then flush acc []
      else if c = ',' then flush acc (.comma :: tokens cs [])
      else if c = ' ' ∨ c = '\t' then flush acc (tokens cs [])
      else tokens cs (c :: acc)

/-- The value of a digit in the given base, upper or lower case. -/
def digitValue (base : Nat) (c : Char) : Option Nat :=
  let n := c.toNat
  let v :=
    if 48 ≤ n ∧ n ≤ 57 then n - 48
    else if 65 ≤ n ∧ n ≤ 70 then n - 55
    else if 97 ≤ n ∧ n ≤ 102 then n - 87
    else base
  if v < base then some v else none

/-- Digits, most significant first; `_` only groups digits (R7).
DESIGN CHOICE, log entry 15: after the first digit a `_` may stand anywhere, doubled or at the end too (`5_` is 5). -/
def digitsValue (base : Nat) : List Char → Nat → Option Nat
  | [], n => some n
  | c :: cs, n =>
      if c = '_' then digitsValue base cs n
      else
        match digitValue base c with
        | some d => digitsValue base cs (n * base + d)
        | none => none

/-- A numeral, decimal or `0x` hexadecimal (R45); it has at least one digit.
DESIGN CHOICE, log entry 15: its digits do not begin with a `_`, which would not stand inside the numeral (R7). -/
def numeralValue : List Char → Option Nat
  | '0' :: 'x' :: c :: cs => if c = '_' then none else digitsValue 16 (c :: cs) 0
  | c :: cs => if c = '_' then none else digitsValue 10 (c :: cs) 0
  | [] => none

/-- A host name begins with a letter (R46 gives H, L, N as names). -/
def isName : List Char → Bool
  | [] => false
  | c :: _ => c.isAlpha

/-- An operand is a numeral or a name (R45, R46). -/
def operandOf (cs : List Char) : Option Operand :=
  match numeralValue cs with
  | some n => some (.numeral n)
  | none => if isName cs then some (.name (String.ofList cs)) else none

/-- The names after an arrow, separated by a comma: one or two (R46). No arrow, no names. -/
def arrowNames : List Token → Option (List String)
  | [] => some []
  | [.arrow, .word n] => if isName n then some [String.ofList n] else none
  | [.arrow, .word h, .comma, .word l] =>
      if isName h && isName l then some [String.ofList h, String.ofList l] else none
  | _ => none

/-- The four line forms (R45), the mnemonic in capitals as the spec writes it, each with its arrow (R46). -/
def lineOfTokens : List Token → Option Line
  | .word m :: .word p :: .comma :: .word q :: .comma :: .word r :: rest =>
      if m = ['S', 'H', 'R', '1', '2', '8'] then
        match operandOf p, operandOf q, operandOf r, arrowNames rest with
        | some p, some q, some r, some names => some ⟨.shr128 p q r, names⟩
        | _, _, _, _ => none
      else none
  | .word m :: .word p :: .comma :: .word q :: rest =>
      match operandOf p, operandOf q, arrowNames rest with
      | some p, some q, some names =>
          if m = ['M', 'U', 'L', '6', '4'] then some ⟨.mul64 p q, names⟩
          else if m = ['M', 'O', 'D', '1', 'E', '9'] then some ⟨.mod1e9 p q, names⟩
          else none
      | _, _, _ => none
  | [.word m] => if m = ['.', 'r', 'e', 's', 'e', 'r', 'v', 'e', 'd'] then some ⟨.reserved, []⟩ else none
  | _ => none

/-- The line that a text spells, if it spells one (R45, R46). -/
def parseLine (text : List Char) : Option Line := lineOfTokens (tokens text [])

/-- The packed command of a line of text under the host's names, as the numeral of R37; `none` where the text spells no
line or the assembler refuses it. -/
def assembleText (names : Names) (text : String) : Option Nat :=
  match parseLine text.toList with
  | none => none
  | some l =>
      if l.bindsWellFormed then
        match assemble names l.cmd with
        | .ok c => some c.pack.toNat
        | .error _ => none
      else none

end Sys2Proof.Machine
end

