-- ==== Sys2Proof/Machine/Instances.lean ====
section
/-! DEFINITION. Several instances of the block side by side (60_exceptions.md R72, 20_memory.md R34): each has its own state,
and they share nothing. -/

namespace Sys2Proof.Machine

open Host (Outcome)

/-- One step of instance `k` among NINST instances; the others stay as they are (R72). An index that names no instance
changes nothing. -/
def stepAt (k : Nat) (blocks : List State) : Outcome (List State) Fault Refusal :=
  match blocks[k]? with
  | none => .next blocks
  | some s =>
      match step s with
      | .next t => .next (blocks.set k t)
      | .fault r => .fault r
      | .refused r => .refused r

end Sys2Proof.Machine
end

