-- ==== Sys2Proof/Machine/Response.lean ====
section
/-! DEFINITION. The typed answer to a command (30_encoding.md R44), stated beside the state it is shown in. -/

namespace Sys2Proof.Machine

/-- "MUL64 answers a pair (hi, lo); SHR128 answers one 64-bit word; MOD1E9 answers one number below 10^9; a reserved command
answers nothing and sets ERR" (R44). -/
inductive Response where
  | pair (hi lo : Word)
  | word (w : Word)
  | number (r : Nat)
  | nothing
deriving DecidableEq, Repr

/-- The answer to an instruction: a function of the instruction alone (10_state.md R13, 30_encoding.md R44). -/
def answer : Instr → Response
  | .mul64 x y => .pair (highHalf (product x y)) (lowHalf (product x y))
  | .shr128 hi lo dist => .word (lowHalf (shifted hi lo dist))
  | .mod1e9 hi lo => .number (remainder hi lo)
  | .reserved => .nothing

/-- What the ports `r_hi`, `r_lo` carry for an answer: unused positions are 0 (R44, 10_state.md R15, R16). -/
def Response.onPorts : Response → Option (Word × Word)
  | .pair hi lo => some (hi, lo)
  | .word w => some (0, w)
  | .number r => some (0, lowHalf r)
  | .nothing => none

end Sys2Proof.Machine
end

