-- ==== Sys2Proof/Safety.lean ====
section
/-! DEFINITION. What counts as a good end of a run (70_reset_and_hazards.md R86), the invariant that every step keeps
(10_state.md R17), and a run of several steps. -/

namespace Sys2Proof.Machine

/-- `n` steps of the machine, stopping at the first refusal: the host's own `run`, at this model's types. -/
def runSteps (n : Nat) (s : State) : Host.Outcome State Fault Refusal := Host.Core.run Sys2Proof.core n s

/-- The move is a `start` (R80). -/
def Move.isStart : Move → Bool
  | .issue _ => true
  | .readStatus => false
  | .readHi => false
  | .readLo => false
  | .block => false
  | .reset => false

/-- The moves still listed for this run: those before the next listed reset, which begins another run (R86: "A run is: a
reset, then a finite list of commands"). DEDUCED, log entry 16. -/
def State.runTodo (s : State) : List Move := s.todo.takeWhile (· != .reset)

/-- The run has ended: "busy = 0 and no further start" (R86). Other moves may still be listed.
DEDUCED, log entry 16: a read among them takes place after the end; a reset among them begins another run, and a start
listed behind that reset belongs to that other run and is no further start of this one. -/
def State.ended (s : State) : Bool := !s.busy && !s.runTodo.any Move.isStart

/-- The end state is good "when ERR = 0 and VALID = 1" (R86). A state with ERR = 1 is faulted and never final
(93_implementation_defined.md U1). -/
def State.goodEnd (s : State) : Bool := s.ended && !s.err && s.valid

/-- VALID = 1 only when the most recently issued command has completed: never while one is pending (10_state.md R17,
20_memory.md R31). -/
def State.validIsIdle (s : State) : Prop := s.valid = true → s.pend = none

end Sys2Proof.Machine
end

