-- ==== Sys2Proof/Certificates/Slice0/Obligations.lean ====
section
/-! DEFINITION. The statements for the provers. Each says which rules of the spec it formalises. -/

open Sys2Proof Sys2Proof.Machine

/-! ### Encoding -/

/-- 30_encoding.md R37: `CMD = {op, dist, b, a}`, as bit positions and as the numeral of 35 hexadecimal digits whose
first digit is op, next two dist, next sixteen b and last sixteen a; the packed form loses nothing. -/
def Obligations.PackedFormLayout : Prop :=
  (∀ c : Command,
    c.pack.extractLsb' 136 2 = c.op ∧ c.pack.extractLsb' 128 8 = c.dist ∧
    c.pack.extractLsb' 64 64 = c.b ∧ c.pack.extractLsb' 0 64 = c.a ∧
    c.pack.toNat < 4 * 16 ^ 34 ∧
    c.pack.toNat / 16 ^ 34 = c.op.toNat ∧
    c.pack.toNat / 16 ^ 32 % 16 ^ 2 = c.dist.toNat ∧
    c.pack.toNat / 16 ^ 16 % 16 ^ 16 = c.b.toNat ∧
    c.pack.toNat % 16 ^ 16 = c.a.toNat ∧
    Command.unpack c.pack = c) ∧
  (∀ w : CmdWord, (Command.unpack w).pack = w)

/-- 30_encoding.md R47: decoding is total and needs only op; it forgets the ignored fields and so is not injective; two
commands that differ only in ignored fields, or in `dist[7:6]` of a SHR128, have the same effect; the canonical
encoder writes ignored fields as 0. -/
def Obligations.DecodeByOpForgetsIgnored : Prop :=
  (∀ w : CmdWord,
    (w.extractLsb' 136 2 = 0b00#2 → decodeWord w = .mul64 (w.extractLsb' 0 64) (w.extractLsb' 64 64)) ∧
    (w.extractLsb' 136 2 = 0b01#2 →
      decodeWord w = .shr128 (w.extractLsb' 64 64) (w.extractLsb' 0 64) (w.extractLsb' 128 8)) ∧
    (w.extractLsb' 136 2 = 0b10#2 → decodeWord w = .mod1e9 (w.extractLsb' 64 64) (w.extractLsb' 0 64)) ∧
    (w.extractLsb' 136 2 = 0b11#2 → decodeWord w = .reserved)) ∧
  (∃ w w' : CmdWord, w ≠ w' ∧ decodeWord w = decodeWord w') ∧
  (∀ c c' : Command, c.op = c'.op →
    (c.op = 0b00#2 → c.a = c'.a → c.b = c'.b → decode c = decode c') ∧
    (c.op = 0b01#2 → c.a = c'.a → c.b = c'.b → c.dist.extractLsb' 0 6 = c'.dist.extractLsb' 0 6 →
      ∀ s : State, exec (decode c) s = exec (decode c') s) ∧
    (c.op = 0b10#2 → c.a = c'.a → c.b = c'.b → decode c = decode c') ∧
    (c.op = 0b11#2 → decode c = decode c')) ∧
  (∀ x y hi lo : Word, ∀ d : Dist,
    encode (.mul64 x y) = ⟨0b00#2, 0, y, x⟩ ∧ encode (.shr128 hi lo d) = ⟨0b01#2, d, hi, lo⟩ ∧
    encode (.mod1e9 hi lo) = ⟨0b10#2, 0, hi, lo⟩ ∧ encode .reserved = ⟨0b11#2, 0, 0, 0⟩)

/-- Derived from 30_encoding.md R37, R45, R47: decoding the packed canonical encoding of any instruction, with every
operand at every value, gives that instruction back, by every way into the decoder. -/
def Obligations.DecodeOfEncodeIsIdentity : Prop :=
  ∀ i : Instr,
    decodeWord (encodeWord i) = i ∧ decodeNumeral (encodeWord i).toNat = .ok i ∧
    decodeTableWord 138 (encodeWord i).toNat = some i

/-- Derived from 30_encoding.md R40, R45, R47: encoding what was decoded gives the command back with its ignored fields
0, and unchanged if they already were. -/
def Obligations.EncodeOfDecodeClearsIgnored : Prop :=
  ∀ w : CmdWord,
    ((w.extractLsb' 136 2 = 0b00#2 ∨ w.extractLsb' 136 2 = 0b10#2) →
      encodeWord (decodeWord w) = w &&& ~~~(0xFF#138 <<< 128)) ∧
    (w.extractLsb' 136 2 = 0b01#2 → encodeWord (decodeWord w) = w) ∧
    (w.extractLsb' 136 2 = 0b11#2 → encodeWord (decodeWord w) = 0x3#138 <<< 136)

/-- Derived from 30_encoding.md R37, R47 and 95_test_vectors.md sections 2 and 3: packed commands as the spec writes them,
with the instructions they stand for. -/
def Obligations.SpecWordsDecode : Prop :=
  decodeTableWord 138 0x0000FEDCBA987654321123456789ABCDEF0 =
    some (.mul64 0x123456789ABCDEF0 0x0FEDCBA987654321) ∧
  decodeTableWord 138 0x13F0123456789ABCDEFFEDCBA9876543210 =
    some (.shr128 0x0123456789ABCDEF 0xFEDCBA9876543210 63) ∧
  decodeTableWord 138 0x200000000018EE90FF6C373E0EE4E3F0AD2 =
    some (.mod1e9 0x000000018EE90FF6 0xC373E0EE4E3F0AD2) ∧
  decodeTableWord 138 0x3FFFFFFFFFFFFFFFFFFFFFFFFFFFFFFFFFF = some .reserved

/-- Derived from 30_encoding.md R37, R47: a numeral of at most 138 bits decodes, and one with a bit above bit 137 is
refused by name (the refusal is the model's choice, log entry 11). -/
def Obligations.NumeralDecodesIffInCommandWidth : Prop :=
  ∀ n : Nat,
    (n < 2 ^ 138 → decodeNumeral n = .ok (decodeWord (BitVec.ofNat 138 n))) ∧
    (2 ^ 138 ≤ n → decodeNumeral n = .error .bitsAboveCommand)

/-- 30_encoding.md R40: which fields each operation reads; a field marked "ignored" may hold any value, with the same
result and no fault. -/
def Obligations.IgnoredFieldsChangeNothing : Prop :=
  ∀ (x y : Word) (d d' : Dist) (s : State),
    (∃ t, exec (decode ⟨0b00#2, d, y, x⟩) s = .next t ∧ t.rHi.toNat * 2 ^ 64 + t.rLo.toNat = x.toNat * y.toNat ∧
      exec (decode ⟨0b00#2, d', y, x⟩) s = .next t ∧ t.err = s.err) ∧
    (∃ t, exec (decode ⟨0b01#2, d, y, x⟩) s = .next t ∧
      t.rLo.toNat = (y.toNat * 2 ^ 64 + x.toNat) / 2 ^ (d.extractLsb' 0 6).toNat % 2 ^ 64 ∧
      (d.extractLsb' 0 6 = d'.extractLsb' 0 6 → exec (decode ⟨0b01#2, d', y, x⟩) s = .next t) ∧ t.err = s.err) ∧
    (∃ t, exec (decode ⟨0b10#2, d, y, x⟩) s = .next t ∧ t.rLo.toNat = (y.toNat * 2 ^ 64 + x.toNat) % 10 ^ 9 ∧
      exec (decode ⟨0b10#2, d', y, x⟩) s = .next t ∧ t.err = s.err) ∧
    (∀ x' y' : Word,
      decode ⟨0b11#2, d, y, x⟩ = decode ⟨0b11#2, d', y', x'⟩ ∧
      ∃ t, exec (decode ⟨0b11#2, d, y, x⟩) s = .next t ∧ t.err = true ∧ t.valid = false)

/-- 30_encoding.md R41: exactly one encoding class is illegal, op = 11 with any other fields, and executing it raises
ReservedOp; every other pattern is legal; SHR128 with dist ≥ 64 shifts by dist mod 64; MUL64 and MOD1E9 with non-zero dist
behave as with dist = 0. -/
def Obligations.OnlyOpElevenIsIllegal : Prop :=
  (∀ (w : CmdWord) (s : State),
    (w.extractLsb' 136 2 = 0b11#2 →
      ∃ t, exec (decodeWord w) s = .next t ∧ t.err = true ∧ t.valid = false) ∧
    (w.extractLsb' 136 2 ≠ 0b11#2 →
      ∃ t, exec (decodeWord w) s = .next t ∧ t.err = s.err ∧ t.valid = true)) ∧
  (∀ (b a : Word) (d : Dist) (s : State),
    (64 ≤ d.toNat →
      exec (decode ⟨0b01#2, d, b, a⟩) s = exec (decode ⟨0b01#2, BitVec.ofNat 8 (d.toNat % 64), b, a⟩) s) ∧
    exec (decode ⟨0b00#2, d, b, a⟩) s = exec (decode ⟨0b00#2, 0, b, a⟩) s ∧
    exec (decode ⟨0b10#2, d, b, a⟩) s = exec (decode ⟨0b10#2, 0, b, a⟩) s)

/-! ### MUL64 -/

/-- 40_mul64.md R48: MUL64 completes from every state with the exact product in the two result registers and VALID set;
nothing else changes (its frame, which is the whole of the next state), ERR is neither read nor written, no exception; and
the rule's corner cases and example. -/
def Obligations.Mul64WritesExactProduct : Prop :=
  (∀ (d : Dist) (y x : Word), decode ⟨0b00#2, d, y, x⟩ = .mul64 x y) ∧
  (∀ (x y : Word) (s : State), ∃ t,
    exec (.mul64 x y) s = .next t ∧
    t = { s with rHi := t.rHi, rLo := t.rLo, valid := true } ∧
    t.rHi.toNat = x.toNat * y.toNat / 2 ^ 64 ∧
    t.rLo.toNat = x.toNat * y.toNat % 2 ^ 64 ∧
    t.rHi.toNat * 2 ^ 64 + t.rLo.toNat = x.toNat * y.toNat ∧
    x.toNat * y.toNat ≤ (2 ^ 64 - 1) ^ 2 ∧
    (x = 0 ∨ y = 0 → t.rHi = 0 ∧ t.rLo = 0) ∧
    (y = 1 → t.rHi = 0 ∧ t.rLo = x) ∧
    (x = 0xFFFFFFFFFFFFFFFF#64 → y = 0xFFFFFFFFFFFFFFFF#64 → t.rHi = 0xFFFFFFFFFFFFFFFE#64 ∧ t.rLo = 1) ∧
    (x = 0x0DE0B6B3A7640000#64 → y = 0x64#64 → t.rHi = 5 ∧ t.rLo = 0x6BC75E2D63100000#64))

/-- 40_mul64.md R49, its laws (1) to (6). -/
def Obligations.Mul64Laws : Prop :=
  ∀ (x y : Word) (s : State), ∃ t,
    exec (.mul64 x y) s = .next t ∧
    x.toNat * y.toNat < 2 ^ 128 ∧ t.rHi.toNat * 2 ^ 64 + t.rLo.toNat = x.toNat * y.toNat ∧
    t.rHi.toNat ≤ 2 ^ 64 - 2 ∧
    exec (.mul64 y x) s = .next t ∧
    t.rLo = x * y ∧
    (t.rHi = 0 ↔ x.toNat * y.toNat < 2 ^ 64) ∧
    (∀ s' : State, ∃ t', exec (.mul64 x y) s' = .next t' ∧ t'.rHi = t.rHi ∧ t'.rLo = t.rLo)

/-- Derived from 40_mul64.md R50: where both operands are below 2^63 the unsigned product is also the signed one; its
worked value for x = 2^64 - 1, y = 2 is the unsigned one. -/
def Obligations.Mul64UnsignedAgreesWithSignedBelowTwoTo63 : Prop :=
  (∀ (x y : Word) (s : State), x.toNat < 2 ^ 63 → y.toNat < 2 ^ 63 → ∃ t,
    exec (.mul64 x y) s = .next t ∧ (t.rHi ++ t.rLo : BitVec 128).toInt = x.toInt * y.toInt) ∧
  (∀ s : State, ∃ t, exec (.mul64 0xFFFFFFFFFFFFFFFF#64 2#64) s = .next t ∧ t.rHi = 1)

/-- Derived from 40_mul64.md R51: the product of a 64-bit and a 128-bit number from two MUL64 commands and the host's own
additions; the top word does not overflow. -/
def Obligations.WideProductFromTwoMul64 : Prop :=
  ∀ (m t1 t0 : Word) (s : State), ∃ s0 s1,
    exec (.mul64 m t0) s = .next s0 ∧ exec (.mul64 m t1) s0 = .next s1 ∧
    (let mid := s1.rLo.toNat + s0.rHi.toNat
     let c := if 2 ^ 64 ≤ mid then 1 else 0
     s1.rHi.toNat + c < 2 ^ 64 ∧
     m.toNat * (t1.toNat * 2 ^ 64 + t0.toNat) =
       (s1.rHi.toNat + c) * 2 ^ 128 + mid % 2 ^ 64 * 2 ^ 64 + s0.rLo.toNat)

/-! ### SHR128 -/

/-- 41_shr128.md R52: SHR128 completes from every state with the low 64 bits of the shifted value, R_HI 0 and VALID set;
nothing else changes, ERR is neither read nor written, no exception; and the rule's corner cases and example. -/
def Obligations.Shr128WritesLowWord : Prop :=
  (∀ (d : Dist) (hi lo : Word), decode ⟨0b01#2, d, hi, lo⟩ = .shr128 hi lo d) ∧
  (∀ (hi lo : Word) (dist : Dist) (s : State), ∃ t,
    exec (.shr128 hi lo dist) s = .next t ∧
    t = { s with rHi := 0, rLo := t.rLo, valid := true } ∧
    t.rLo.toNat = (hi.toNat * 2 ^ 64 + lo.toNat) / 2 ^ (dist.toNat % 64) % 2 ^ 64 ∧
    (dist.toNat % 64 = 0 → t.rLo = lo) ∧
    (dist = 64 ∨ dist = 128 ∨ dist = 192 → exec (.shr128 hi lo 0) s = .next t) ∧
    (dist = 65 → exec (.shr128 hi lo 1) s = .next t) ∧
    (dist = 255 → exec (.shr128 hi lo 63) s = .next t) ∧
    (hi = 0 → t.rLo = lo >>> (dist.toNat % 64)) ∧
    (lo = 0 → dist.toNat % 64 ≠ 0 →
      t.rLo.toNat = hi.toNat % 2 ^ (dist.toNat % 64) * 2 ^ (64 - dist.toNat % 64)) ∧
    (∀ hi' : Word, hi'.toNat % 2 ^ (dist.toNat % 64) = hi.toNat % 2 ^ (dist.toNat % 64) →
      exec (.shr128 hi' lo dist) s = .next t) ∧
    (hi = 0x0123456789ABCDEF#64 → lo = 0xFEDCBA9876543210#64 → dist = 4 → t.rLo = 0xFFEDCBA987654321#64))

/-- 41_shr128.md R54: the half-wise form for distances 1 to 63, whose two parts never overlap, and lo at distance 0. -/
def Obligations.Shr128HalfWiseForm : Prop :=
  ∀ (hi lo : Word) (dist : Dist) (s : State), ∃ t,
    exec (.shr128 hi lo dist) s = .next t ∧
    (dist.toNat % 64 ≠ 0 →
      t.rLo = (hi <<< (64 - dist.toNat % 64)) ||| (lo >>> (dist.toNat % 64)) ∧
      t.rLo = (hi <<< (64 - dist.toNat % 64)) + (lo >>> (dist.toNat % 64)) ∧
      (hi <<< (64 - dist.toNat % 64)) &&& (lo >>> (dist.toNat % 64)) = 0 ∧
      (∀ k, k < 64 - dist.toNat % 64 → t.rLo.getLsbD k = lo.getLsbD (k + dist.toNat % 64)) ∧
      (∀ k, 64 - dist.toNat % 64 ≤ k → k < 64 → t.rLo.getLsbD k = hi.getLsbD (k + dist.toNat % 64 - 64))) ∧
    (dist.toNat % 64 = 0 → t.rLo = lo)

/-- 41_shr128.md R55, its laws (1) to (6). -/
def Obligations.Shr128Laws : Prop :=
  (∀ (hi lo : Word) (dist : Dist) (s : State), ∃ t,
    exec (.shr128 hi lo dist) s = .next t ∧
    -- (1)
    (∀ (dist' : Dist) (s' : State), dist'.extractLsb' 0 6 = dist.extractLsb' 0 6 →
      ∃ t', exec (.shr128 hi lo dist') s' = .next t' ∧ t'.rLo = t.rLo ∧ t'.rHi = t.rHi) ∧
    -- (2)
    (∀ hi' : Word, (∀ k, k < dist.toNat % 64 → hi'.getLsbD k = hi.getLsbD k) →
      exec (.shr128 hi' lo dist) s = .next t) ∧
    -- (3)
    (hi.toNat < 2 ^ (dist.toNat % 64) →
      t.rLo.toNat = (hi.toNat * 2 ^ 64 + lo.toNat) / 2 ^ (dist.toNat % 64)) ∧
    -- (4)
    (∀ x y : Word, ∃ p, exec (.mul64 x y) s = .next p ∧ ∃ q, exec (.shr128 p.rHi p.rLo dist) p = .next q ∧
      q.rLo.toNat = x.toNat * y.toNat / 2 ^ (dist.toNat % 64) % 2 ^ 64) ∧
    -- (5)
    (∀ x : Word, ∃ q, exec (.shr128 0 x dist) s = .next q ∧ q.rLo = x >>> (dist.toNat % 64)) ∧
    (∃ q, exec (.shr128 0 hi dist) s = .next q ∧
      q.rLo.toNat = (hi.toNat * 2 ^ 64 + lo.toNat) / 2 ^ (dist.toNat % 64) / 2 ^ 64) ∧
    -- (6)
    (∀ dist2 : Dist, dist.toNat % 64 + dist2.toNat % 64 < 64 →
      ∃ h, exec (.shr128 0 hi dist) s = .next h ∧
      ∃ q, exec (.shr128 h.rLo t.rLo dist2) t = .next q ∧
      exec (.shr128 hi lo (BitVec.ofNat 8 (dist.toNat % 64 + dist2.toNat % 64))) t = .next q) ∧
    t.rHi = 0) ∧
  -- (6), "only while the sum stays below 64"
  (∀ s : State, ∃ t q u,
    exec (.shr128 0 0x8000000000000000#64 32) s = .next t ∧ exec (.shr128 0 t.rLo 32) t = .next q ∧
    exec (.shr128 0 0x8000000000000000#64 64) t = .next u ∧ q.rLo ≠ u.rLo)

/-- Derived from 41_shr128.md R53, R56: distance 64 returns lo and not hi, and R_HI after SHR128 is 0 even where the
shifted value has a high half. -/
def Obligations.Shr128IsNoFullWidthShifter : Prop :=
  ∀ (hi lo : Word) (s : State),
    (∃ t, exec (.shr128 hi lo 64) s = .next t ∧ t.rLo = lo ∧ (hi ≠ lo → t.rLo ≠ hi)) ∧
    (∀ dist : Dist, 2 ^ (dist.toNat % 64) ≤ hi.toNat →
      (hi.toNat * 2 ^ 64 + lo.toNat) / 2 ^ (dist.toNat % 64) / 2 ^ 64 ≠ 0 ∧
      ∃ t, exec (.shr128 hi lo dist) s = .next t ∧ t.rHi = 0)

/-! ### MOD1E9 -/

/-- 42_mod1e9.md R57: MOD1E9 completes from every state with the exact remainder for every one of the 2^128 values, R_HI 0
and VALID set; nothing else changes, ERR is neither read nor written, no exception; and the rule's corner cases and
example. -/
def Obligations.Mod1e9WritesExactRemainder : Prop :=
  (∀ (d : Dist) (hi lo : Word), decode ⟨0b10#2, d, hi, lo⟩ = .mod1e9 hi lo) ∧
  (∀ (hi lo : Word) (s : State), ∃ t,
    exec (.mod1e9 hi lo) s = .next t ∧
    t = { s with rHi := 0, rLo := t.rLo, valid := true } ∧
    t.rLo.toNat = (hi.toNat * 2 ^ 64 + lo.toNat) % 1000000000 ∧
    t.rLo.toNat ≤ 999999999 ∧
    (hi.toNat * 2 ^ 64 + lo.toNat < 1000000000 → t.rLo = lo) ∧
    (hi = 0 → lo = 1000000000 → t.rLo = 0) ∧
    (hi = 0 → lo = 999999999 → t.rLo = 999999999) ∧
    (hi = 0 → t.rLo.toNat = lo.toNat % 1000000000) ∧
    (hi = 1 → lo = 0 → t.rLo = 709551616) ∧
    (hi = 0xFFFFFFFFFFFFFFFF#64 → lo = 0xFFFFFFFFFFFFFFFF#64 → t.rLo = 768211455) ∧
    (hi = 0x0123456789ABCDEF#64 → lo = 0xFEDCBA9876543210#64 → t.rLo = 683137040))

/-- 42_mod1e9.md R58: the remainder occupies `R_LO[29:0]`, `R_LO[63:30]` is 0 after every MOD1E9, and the low 32 bits are
the whole of it. -/
def Obligations.Mod1e9ResultFitsThirtyBits : Prop :=
  ∀ (hi lo : Word) (s : State), ∃ t,
    exec (.mod1e9 hi lo) s = .next t ∧
    t.rLo.toNat ≤ 999999999 ∧ t.rLo.toNat ≤ 0x3B9AC9FF ∧ t.rLo.toNat < 2 ^ 30 ∧
    t.rLo.extractLsb' 30 34 = 0 ∧
    (t.rLo.extractLsb' 0 30).toNat = (hi.toNat * 2 ^ 64 + lo.toNat) % 10 ^ 9 ∧
    (t.rLo.extractLsb' 0 32).toNat = t.rLo.toNat

/-- 42_mod1e9.md R59, its laws (1) to (6). -/
def Obligations.Mod1e9Laws : Prop :=
  ∀ (hi lo : Word) (s : State), ∃ t,
    exec (.mod1e9 hi lo) s = .next t ∧
    -- (1), (4)
    t.rLo.toNat < 10 ^ 9 ∧ t.rLo.toNat ≤ hi.toNat * 2 ^ 64 + lo.toNat ∧
    10 ^ 9 ∣ hi.toNat * 2 ^ 64 + lo.toNat - t.rLo.toNat ∧
    -- (2)
    (∃ u, exec (.mod1e9 0 t.rLo) t = .next u ∧ u.rLo = t.rLo) ∧
    -- (3)
    2 ^ 64 % 10 ^ 9 = 709551616 ∧
    t.rLo.toNat = (hi.toNat % 10 ^ 9 * 709551616 + lo.toNat % 10 ^ 9) % 10 ^ 9 ∧
    -- (5)
    (∀ k, k < 9 → t.rLo.toNat / 10 ^ k % 10 = (hi.toNat * 2 ^ 64 + lo.toNat) / 10 ^ k % 10) ∧
    (∀ k, 9 ≤ k → t.rLo.toNat / 10 ^ k = 0) ∧
    -- (6)
    (∀ s' : State, ∃ t', exec (.mod1e9 hi lo) s' = .next t' ∧ t'.rHi = t.rHi ∧ t'.rLo = t.rLo)

/-- 42_mod1e9.md R61: the remainder from the low 32 bits of the value and of the quotient alone, by a subtraction that
wraps modulo 2^32. -/
def Obligations.Mod1e9FromLowThirtyTwoBits : Prop :=
  ∀ (hi lo : Word) (s : State), ∃ t,
    exec (.mod1e9 hi lo) s = .next t ∧
    t.rLo.toNat < 2 ^ 32 ∧
    t.rLo.extractLsb' 0 32 =
      lo.extractLsb' 0 32 -
        1000000000#32 * BitVec.ofNat 32 ((hi.toNat * 2 ^ 64 + lo.toNat) / 1000000000) ∧
    t.rLo.toNat = (t.rLo.extractLsb' 0 32).toNat

/-- Derived from 42_mod1e9.md R60: with the scale 2^157 the reciprocal method is another design of the same unit, exact on
all 2^128 inputs. -/
def Obligations.ReciprocalAt157EqualsRemainder : Prop :=
  (0x89705F4136B4A59731680A88F8953031 : Nat) = (2 ^ 157 + 1000000000 - 1) / 1000000000 ∧
  (∀ (hi lo : Word) (s : State), ∃ t,
    exec (.mod1e9 hi lo) s = .next t ∧
    t.rLo.toNat + 1000000000 *
        ((hi.toNat * 2 ^ 64 + lo.toNat) * 0x89705F4136B4A59731680A88F8953031 / 2 ^ 157) =
      hi.toNat * 2 ^ 64 + lo.toNat)

/-- Derived from 42_mod1e9.md R60: with the source's literal scale 2^89 the method's quotient agrees with MOD1E9 (10^9 times
it and the remainder make v) for every value below 1124504750999999999, and fails to at that value, where it is one too
many and MOD1E9 answers 999999999. Rounded down, the constant fails at 10^9; with 2^156 the method fails below 2^128. -/
def Obligations.ReciprocalAt89FirstFails : Prop :=
  (0x089705F4136B4A5A : Nat) = (2 ^ 89 + 1000000000 - 1) / 1000000000 ∧
  (∀ (hi lo : Word) (s : State), hi.toNat * 2 ^ 64 + lo.toNat < 1124504750999999999 → ∃ t,
    exec (.mod1e9 hi lo) s = .next t ∧
    t.rLo.toNat + 1000000000 * ((hi.toNat * 2 ^ 64 + lo.toNat) * 0x089705F4136B4A5A / 2 ^ 89) =
      hi.toNat * 2 ^ 64 + lo.toNat) ∧
  (∀ (hi lo : Word) (s : State), hi.toNat * 2 ^ 64 + lo.toNat = 1124504750999999999 → ∃ t,
    exec (.mod1e9 hi lo) s = .next t ∧ t.rLo = 999999999 ∧
    t.rLo.toNat + 1000000000 * ((hi.toNat * 2 ^ 64 + lo.toNat) * 0x089705F4136B4A5A / 2 ^ 89) =
      hi.toNat * 2 ^ 64 + lo.toNat + 1000000000) ∧
  (∀ s : State, ∃ t, exec (.mod1e9 0 1000000000) s = .next t ∧
    t.rLo.toNat + 1000000000 * (1000000000 * (2 ^ 89 / 1000000000) / 2 ^ 89) ≠ 1000000000) ∧
  (∃ hi lo : Word, ∀ s : State, ∃ t, exec (.mod1e9 hi lo) s = .next t ∧
    t.rLo.toNat + 1000000000 *
        ((hi.toNat * 2 ^ 64 + lo.toNat) * ((2 ^ 156 + 1000000000 - 1) / 1000000000) / 2 ^ 156) ≠
      hi.toNat * 2 ^ 64 + lo.toNat)

/-- Derived from 41_shr128.md R55, 42_mod1e9.md R57 and 95_test_vectors.md P2: multiply, shift both halves with two
SHR128, reduce: the 9-digit block of floor(x * y / 2^d). -/
def Obligations.MultiplyShiftReduceGivesBlock : Prop :=
  ∀ (x y : Word) (dist : Dist) (s : State), ∃ p q r t,
    exec (.mul64 x y) s = .next p ∧
    exec (.shr128 p.rHi p.rLo dist) p = .next q ∧
    exec (.shr128 0 p.rHi dist) q = .next r ∧
    exec (.mod1e9 r.rLo q.rLo) r = .next t ∧
    t.rLo.toNat = x.toNat * y.toNat / 2 ^ (dist.toNat % 64) % 10 ^ 9

/-! ### The reserved command and ERR -/

/-- Derived from 60_exceptions.md R64, R66, R69: a command with op = 11 completes in a next state with ERR 1 and VALID 0;
besides the two result registers, of whose values nothing is said, nothing of the block changes, and the result ports show
no value (30_encoding.md R44: it "answers nothing"). The count of free values
drawn is the model's own (log entry 1). -/
def Obligations.ReservedRaisesReservedOp : Prop :=
  (∀ c : Command, c.op = 0b11#2 → decode c = .reserved) ∧
  (∀ s : State, ∃ t,
    exec .reserved s = .next t ∧
    t = { s with err := true, valid := false, rHi := t.rHi, rLo := t.rLo, draws := t.draws } ∧
    t.outputs = ⟨none, none, false, true, s.busy⟩)

/-- 60_exceptions.md R65: ERR is sticky and does not block: once 1 it stays 1 until reset; an instruction executes with
ERR 1 exactly as with ERR 0; a legal one then leaves the same result and ERR and VALID both 1, a reserved one repeats R64, and of the unspecified result
registers it leaves (R9) nothing is said. -/
def Obligations.ErrIsStickyAndDoesNotBlock : Prop :=
  (∀ s t : State, s.err = true → nextMove s ≠ .reset → step s = .next t → t.err = true) ∧
  (∀ (i : Instr) (s : State), ∃ t u,
    exec i { s with err := false } = .next t ∧
    exec i { s with err := true } = .next u ∧
    u = { t with err := true, rHi := u.rHi, rLo := u.rLo, draws := u.draws } ∧
    (i ≠ .reserved → u = { t with err := true } ∧ u.valid = true ∧ u.err = true ∧ t.err = false) ∧
    (i = .reserved → u.valid = false ∧ u.err = true ∧ t.err = true))

/-- Derived from 60_exceptions.md R63: a legal instruction answers a next state for any operands, with ERR as before, VALID
set, the result registers a function of the instruction alone, and the output ports show that answer, VALID, ERR and the
busy bit (30_encoding.md R44, 70_reset_and_hazards.md R79). -/
def Obligations.LegalInstructionsNeverStop : Prop :=
  ∀ (i : Instr) (s : State), i ≠ .reserved → ∃ t hi lo,
    (answer i).onPorts = some (hi, lo) ∧ exec i s = .next t ∧
    t = { s with rHi := hi, rLo := lo, valid := true } ∧
    t.outputs = ⟨some hi, some lo, true, s.err, s.busy⟩

/-- Derived from 10_state.md R13: no operation's result depends on any state: legal instructions leave the same result
registers and VALID from any two states. -/
def Obligations.ResultsDependOnOperandsOnly : Prop :=
  ∀ (i : Instr) (s1 s2 : State), i ≠ .reserved → ∃ t1 t2,
    exec i s1 = .next t1 ∧ exec i s2 = .next t2 ∧
    t1.rHi = t2.rHi ∧ t1.rLo = t2.rLo ∧ t1.valid = true ∧ t2.valid = true

/-! ### Reset, status, handshake -/

/-- Derived from 10_state.md R24, 70_reset_and_hazards.md R75: the flags and the busy bit are 0 in the reset state and
after every reset. Of R_HI and R_LO nothing is said. -/
def Obligations.ResetClearsFlagsAndBusy : Prop :=
  State.reset.valid = false ∧ State.reset.err = false ∧ State.reset.busy = false ∧ State.reset.status = 0 ∧
  (∀ (s : State) (rest : List Move), s.todo = .reset :: rest → ∃ t,
    step s = .next t ∧ t.valid = false ∧ t.err = false ∧ t.busy = false ∧ t.status = 0 ∧
    t = { s with rHi := t.rHi, rLo := t.rLo, valid := false, err := false, pend := none, todo := rest,
                 draws := t.draws })

/-- Derived from 70_reset_and_hazards.md R76: a reset while a command is pending abandons it: when the block's turn comes
after the reset nothing completes and no fault is raised, whatever the command was. -/
def Obligations.ResetAbandonsPendingCommand : Prop :=
  ∀ (s : State) (c : Command) (rest : List Move), s.pend = some c → s.todo = .reset :: .block :: rest →
    ∃ t u, step s = .next t ∧ step t = .next u ∧
      t.err = false ∧ t.valid = false ∧ t.pend = none ∧ u = { t with todo := rest }

/-- Derived from 10_state.md R20, R22: STATUS is VALID, ERR and the busy bit, in that order from bit 0, and has no storage
of its own. -/
def Obligations.StatusIsAViewOfTheFlags : Prop :=
  (∀ s : State,
    s.status.getLsbD 0 = s.valid ∧ s.status.getLsbD 1 = s.err ∧ s.status.getLsbD 2 = s.busy ∧
    (s.busy = true ↔ ∃ c, s.pend = some c)) ∧
  (∀ s t : State, s.status = t.status ↔ s.valid = t.valid ∧ s.err = t.err ∧ s.busy = t.busy)

/-- Derived from 20_memory.md R31, 70_reset_and_hazards.md R80, R87: when it is the block's turn and a command is pending,
a step is exec of the decoded command with the busy bit cleared (and, where the turn was listed, taken off the list); with
none pending the block rests. That the moves stand in a list, and that the block has its turn when the list is empty, is the
model's choice (log entries 5, 6). -/
def Obligations.StepExecutesPendingCommand : Prop :=
  ∀ (s : State) (rest : List Move),
    (∀ c, s.pend = some c → s.todo = [] → step s = exec (decode c) { s with pend := none }) ∧
    (∀ c, s.pend = some c → s.todo = .block :: rest →
      step s = exec (decode c) { s with pend := none, todo := rest }) ∧
    (s.pend = none → s.todo = [] → step s = .next s) ∧
    (s.pend = none → s.todo = .block :: rest → step s = .next { s with todo := rest })

/-- Derived from 30_encoding.md R37, R47, 70_reset_and_hazards.md R80 (how a command comes to run is the model's choice,
log entry 5, also that on a busy state it replaces the pending command): a command placed by `withFetchWord` is executed by
the very next step, from every state, at a state u that differs from s as after an issue. -/
def Obligations.StepExecutesPlacedCommand : Prop :=
  ∀ (s : State) (w : CmdWord),
    ∃ u, u = { s with pend := none, valid := false, rHi := u.rHi, rLo := u.rLo, draws := u.draws } ∧
      step (s.withFetchWord 138 w.toNat) = exec (decodeWord w) u

/-- Derived from 70_reset_and_hazards.md R80, R83: an issue while not busy latches the command, sets busy, clears VALID and
changes nothing else, but that the result registers, of which nothing is said, hold no defined value until the completion
(R82; log entry 8), and their ports show none. -/
def Obligations.IssueLatchesCommand : Prop :=
  ∀ (s : State) (c : Command) (rest : List Move), s.pend = none → s.todo = .issue c :: rest →
    ∃ t, step s = .next t ∧
      t = { s with pend := some c, valid := false, todo := rest, rHi := t.rHi, rLo := t.rLo, draws := t.draws } ∧
      t.outputs = ⟨none, none, false, s.err, true⟩

/-- Derived from 20_memory.md R30, 70_reset_and_hazards.md R82: while VALID = 1 a read of a result register copies it out
and changes nothing else; a read of STATUS does so always, and reading twice answers the same. -/
def Obligations.ReadsHaveNoSideEffect : Prop :=
  ∀ (s : State) (rest : List Move),
    (s.todo = .readStatus :: rest →
      step s = .next { s with todo := rest, copies := s.copies ++ [.status s.status] }) ∧
    (s.valid = true → s.todo = .readHi :: rest →
      step s = .next { s with todo := rest, copies := s.copies ++ [.hi s.rHi] }) ∧
    (s.valid = true → s.todo = .readLo :: rest →
      step s = .next { s with todo := rest, copies := s.copies ++ [.lo s.rLo] }) ∧
    (s.valid = true → s.todo = .readLo :: .readLo :: rest →
      runSteps 2 s = .next { s with todo := rest, copies := s.copies ++ [.lo s.rLo, .lo s.rLo] })

/-- Derived from 70_reset_and_hazards.md R81, R82, R87: a step is refused exactly for the two host moves that the spec
calls no move, start while busy and a read of a result register while VALID = 0; it never ends in a fault. -/
def Obligations.OnlyHostErrorsAreRefused : Prop :=
  ∀ s : State,
    (∀ r, step s = .refused r ↔
      (r = .startWhileBusy ∧ s.busy = true ∧ ∃ c, nextMove s = .issue c) ∨
      (r = .readWhileInvalid ∧ s.valid = false ∧ (nextMove s = .readHi ∨ nextMove s = .readLo))) ∧
    (∀ f, step s ≠ .fault f)

/-! ### Every step, every state -/

/-- Derived from 10_state.md R17, 20_memory.md R31: the invariant that VALID = 1 only while no command is pending is kept
by every step, from every state that meets it. -/
def Obligations.ValidOnlyWhileIdleIsKept : Prop :=
  ∀ s t : State, s.validIsIdle → step s = .next t → t.validIsIdle

/-- Derived from 10_state.md R17, R24: the reset state meets that invariant. -/
def Obligations.ValidOnlyWhileIdleAtReset : Prop := State.reset.validIsIdle

/-- Derived from 10_state.md R19, 60_exceptions.md R64, R70: ERR rises only when a reserved command completes and falls
only by reset. -/
def Obligations.ErrChangesOnlyByReservedOrReset : Prop :=
  ∀ s t : State, step s = .next t →
    (s.err = false → t.err = true →
      nextMove s = .block ∧ ∃ c, s.pend = some c ∧ c.op = 0b11#2) ∧
    (s.err = true → t.err = false → nextMove s = .reset)

/-- Derived from 10_state.md R15, R16, R17: VALID rises only when a pending legal command completes, and the result
registers then hold that command's result. -/
def Obligations.ValidRisesOnlyWithTheResult : Prop :=
  ∀ s t : State, step s = .next t → s.valid = false → t.valid = true →
    nextMove s = .block ∧ ∃ c, s.pend = some c ∧ c.op ≠ 0b11#2 ∧
      (answer (decode c)).onPorts = some (t.rHi, t.rLo)

/-- Derived from 10_state.md R13, R15, R16, 70_reset_and_hazards.md R75, R80, R82: the result registers change only by the
completion of a pending command, by a reset, or by an issue; a reset and an issue leave them without a value, VALID being 0
(that a model draws values for the registers at an issue is its own form of R82, log entry 8); and a result port comes to
show a value it did not show before only when a pending legal command completes. -/
def Obligations.ResultsChangeOnlyByCompletionResetOrIssue : Prop :=
  ∀ s t : State, step s = .next t →
    ((t.rHi ≠ s.rHi ∨ t.rLo ≠ s.rLo) →
      nextMove s = .reset ∨ (nextMove s = .block ∧ ∃ c, s.pend = some c) ∨ ∃ c, nextMove s = .issue c) ∧
    ((nextMove s = .reset ∨ ∃ c, nextMove s = .issue c) →
      t.valid = false ∧ t.outputs.rHi = none ∧ t.outputs.rLo = none) ∧
    ((t.outputs.rHi ≠ none ∧ t.outputs.rHi ≠ s.outputs.rHi ∨ t.outputs.rLo ≠ none ∧ t.outputs.rLo ≠ s.outputs.rLo) →
      nextMove s = .block ∧ ∃ c, s.pend = some c ∧ c.op ≠ 0b11#2)

/-- Derived from 10_state.md R22, 70_reset_and_hazards.md R76, R83: a pending command stays as it was latched until it
completes or a reset abandons it. -/
def Obligations.PendingCommandIsStable : Prop :=
  ∀ (s t : State) (c : Command), s.pend = some c → step s = .next t →
    (t.pend = some c ∧ nextMove s ≠ .block ∧ nextMove s ≠ .reset) ∨
    (t.pend = none ∧ (nextMove s = .block ∨ nextMove s = .reset))

/-- Derived from 20_memory.md R31, 70_reset_and_hazards.md R80: issue and completion fused into one step give the same state
as the two steps of the handshake, seen on all output ports and in every field but the result registers where they are
unspecified and the count of free values (log entries 1, 8); for a legal command in the result registers too. -/
def Obligations.HandshakeRefinesAtomicStep : Prop :=
  ∀ (s : State) (c : Command) (rest : List Move), s.pend = none → s.todo = .issue c :: .block :: rest →
    ∃ t u, runSteps 2 s = .next t ∧ exec (decode c) { s with todo := rest } = .next u ∧
      t = { u with rHi := t.rHi, rLo := t.rLo, draws := t.draws } ∧ t.outputs = u.outputs ∧
      (c.op ≠ 0b11#2 → t = { u with draws := t.draws })

/-- Derived from 70_reset_and_hazards.md R80: every issued command completes unless reset intervenes: however long a host
polls STATUS first, the block then completes the command, with its result where it is legal and ERR where it is not. That
the moves stand in a list, and that the block has its turn when the list is empty, is the model's choice (log entries 5,
6). -/
def Obligations.EveryIssuedCommandCompletes : Prop :=
  ∀ (s : State) (c : Command) (n : Nat), s.pend = some c → s.todo = List.replicate n .readStatus →
    ∃ t, runSteps (n + 1) s = .next t ∧ t.pend = none ∧ t.todo = [] ∧
      t.copies = s.copies ++ List.replicate n (.status s.status) ∧
      (c.op ≠ 0b11#2 → t.valid = true ∧ t.err = s.err ∧ (answer (decode c)).onPorts = some (t.rHi, t.rLo)) ∧
      (c.op = 0b11#2 → t.valid = false ∧ t.err = true)

/-- Derived from 20_memory.md R33, 60_exceptions.md R65, 10_state.md R17: commands issued one after another, from any idle
state: all complete; ERR is the old ERR or whether one was reserved; VALID and the result registers are those of the last
command. -/
def Obligations.RunOfCommandsEndsWithLastResult : Prop :=
  ∀ (cs : List Command) (c : Command) (rest : List Move) (s : State),
    s.pend = none → s.todo = commandMoves (cs ++ [c]) ++ rest → ∃ t,
      runSteps (2 * (cs.length + 1)) s = .next t ∧
      t.pend = none ∧ t.todo = rest ∧ t.copies = s.copies ∧
      t.err = (s.err || (cs ++ [c]).any Command.isReserved) ∧
      t.valid = !c.isReserved ∧
      (c.op ≠ 0b11#2 → (answer (decode c)).onPorts = some (t.rHi, t.rLo))

/-- Derived from 70_reset_and_hazards.md R86: a run is a reset and then a finite list of commands; it has ended after the
last of them whatever moves follow, if no start is listed before the next reset (log entry 16); its end is good exactly when
there is a command and none was reserved. -/
def Obligations.RunFromResetEndsGood : Prop :=
  ∀ (cs : List Command) (rest : List Move) (s : State),
    s.todo = .reset :: (commandMoves cs ++ rest) → (∀ c, Move.issue c ∉ rest.takeWhile (· != .reset)) → ∃ t,
    runSteps (2 * cs.length + 1) s = .next t ∧ t.ended = true ∧
    (t.goodEnd = true ↔ cs ≠ [] ∧ ∀ c ∈ cs, c.op ≠ 0b11#2)

/-- Derived from 60_exceptions.md R72: a step of one instance is the step of that block alone and leaves every other
instance as it was. -/
def Obligations.InstancesShareNothing : Prop :=
  ∀ (blocks : List State) (k : Nat),
    (∀ blocks', stepAt k blocks = .next blocks' →
      blocks'.length = blocks.length ∧ ∀ j, j ≠ k → blocks'[j]? = blocks[j]?) ∧
    (∀ (s t : State), blocks[k]? = some s → step s = .next t →
      ∃ blocks', stepAt k blocks = .next blocks' ∧ blocks'[k]? = some t)

/-! ### The assembler and listings -/

/-- Derived from 30_encoding.md R45: the four line forms with literal operands, and the refusal of a numeral outside its
range. -/
def Obligations.AssemblerChecksRanges : Prop :=
  ∀ (names : Names) (m n d : Nat),
    (m < 2 ^ 64 → n < 2 ^ 64 →
      assemble names (.mul64 (.numeral m) (.numeral n)) =
        .ok ⟨0b00#2, 0, BitVec.ofNat 64 n, BitVec.ofNat 64 m⟩ ∧
      assemble names (.mod1e9 (.numeral m) (.numeral n)) =
        .ok ⟨0b10#2, 0, BitVec.ofNat 64 m, BitVec.ofNat 64 n⟩ ∧
      (d < 256 → assemble names (.shr128 (.numeral m) (.numeral n) (.numeral d)) =
        .ok ⟨0b01#2, BitVec.ofNat 8 d, BitVec.ofNat 64 m, BitVec.ofNat 64 n⟩) ∧
      (256 ≤ d → assemble names (.shr128 (.numeral m) (.numeral n) (.numeral d)) = .error .distanceOutOfRange)) ∧
    (2 ^ 64 ≤ m ∨ 2 ^ 64 ≤ n →
      assemble names (.mul64 (.numeral m) (.numeral n)) = .error .operandOutOfRange ∧
      assemble names (.mod1e9 (.numeral m) (.numeral n)) = .error .operandOutOfRange ∧
      assemble names (.shr128 (.numeral m) (.numeral n) (.numeral d)) = .error .operandOutOfRange) ∧
    assemble names .reserved = .ok ⟨0b11#2, 0, 0, 0⟩

/-- Derived from 30_encoding.md R45, R46: a line whose static checks hold assembles to a command; only a name that stands
for a distance can still be out of range, and the line is refused only where the name's value is 256 or more (that it is
checked when the line is assembled is the model's choice, log entry 15). -/
def Obligations.WellFormedLinesAssemble : Prop :=
  ∀ (names : Names) (l : AsmCmd), l.wellFormed (names.map Prod.fst) = true →
    (∃ c, assemble names l = .ok c) ∨
    (assemble names l = .error .distanceOutOfRange ∧ ∃ hi lo id w,
      l = .shr128 hi lo (.name id) ∧ names.lookup id = some w ∧ 256 ≤ w.toNat)

/-- Derived from 30_encoding.md R46, 70_reset_and_hazards.md R84, 41_shr128.md R55: the source's multiply-and-shift as a
listing, `MUL64 x, y -> H, L` and `SHR128 H, L, d -> S`: the host carries the product over, and S is the low word of
floor(x * y / 2^(d mod 64)). -/
def Obligations.MultiplyAndShiftListing : Prop :=
  ∀ (x y : Word) (d : Dist) (s : State), s.pend = none → ∃ names t,
    runListing
      [⟨.mul64 (.numeral x.toNat) (.numeral y.toNat), ["H", "L"]⟩,
       ⟨.shr128 (.name "H") (.name "L") (.numeral d.toNat), ["S"]⟩] [] s = some (names, t) ∧
    names.lookup "S" = some (BitVec.ofNat 64 (x.toNat * y.toNat / 2 ^ (d.toNat % 64))) ∧
    t.rHi = 0 ∧ t.valid = true ∧ t.err = s.err

/-- Derived from 30_encoding.md R45, R46 and 95_test_vectors.md section 3: lines as the spec writes them assemble to the
packed commands that it gives beside them, names substituted, and numerals out of range are refused. -/
def Obligations.SpecLinesAssemble : Prop :=
  assembleText [] "MUL64 0x0DE0B6B3A7640000, 0x64 -> H, L" = some 0x00000000000000000640DE0B6B3A7640000 ∧
  assembleText [("H", 5), ("L", 0x6BC75E2D63100000)] "SHR128 H, L, 20 -> S" =
    some 0x11400000000000000056BC75E2D63100000 ∧
  assembleText [] "MOD1E9 0, 0x0123456789ABCDEF -> R" = some 0x20000000000000000000123456789ABCDEF ∧
  assembleText [] ".reserved ; only for tests" = some 0x30000000000000000000000000000000000 ∧
  assembleText [] "SHR128 1, 2, 256" = none ∧
  assembleText [] "MUL64 0x10000000000000000, 2" = none

/-! ### The output ports -/

/-- Derived from 30_encoding.md R44, 10_state.md R20, 70_reset_and_hazards.md R79, R82: `valid`, `err` and `busy` are the
three bits of STATUS; `r_hi` and `r_lo` show R_HI and R_LO while VALID = 1 and no value while VALID = 0 (log entry 8), so that
two states which differ in the result registers alone cannot be told apart at the ports then. -/
def Obligations.OutputPortsShowResultsOnlyWhileValid : Prop :=
  (∀ s : State,
    s.outputs.valid = s.status.getLsbD 0 ∧ s.outputs.err = s.status.getLsbD 1 ∧ s.outputs.busy = s.status.getLsbD 2 ∧
    (s.valid = true → s.outputs.rHi = some s.rHi ∧ s.outputs.rLo = some s.rLo) ∧
    (s.valid = false → s.outputs.rHi = none ∧ s.outputs.rLo = none ∧
      ∀ hi lo : Word, { s with rHi := hi, rLo := lo }.outputs = s.outputs)) ∧
  (∀ (s : State) (c : Command), s.pend = some c → s.validIsIdle → s.outputs = ⟨none, none, false, s.err, true⟩)
end

