-- ==== Sys2Proof/Laws/Decode.lean ====
section
/-! SUPPORT. What the decoder answers for each value of op, and the reserved command. -/

namespace Sys2Proof

variable {c : Command}

/-- A select code has one of four values (30_encoding.md R38). -/
theorem opSel_cases (o : OpSel) : o = 0b00#2 ∨ o = 0b01#2 ∨ o = 0b10#2 ∨ o = 0b11#2 := by
  revert o; decide

theorem decode_of_op_mul64 (h : c.op = 0b00#2) : decode c = .mul64 c.a c.b := by
  simp [decode, h, opMul64]

theorem decode_of_op_shr128 (h : c.op = 0b01#2) : decode c = .shr128 c.b c.a c.dist := by
  simp [decode, h, opMul64, opShr128]

theorem decode_of_op_mod1e9 (h : c.op = 0b10#2) : decode c = .mod1e9 c.b c.a := by
  simp [decode, h, opMul64, opShr128, opMod1e9]

theorem decode_of_op_reserved (h : c.op = 0b11#2) : decode c = .reserved := by
  simp [decode, h, opMul64, opShr128, opMod1e9]

/-- Only op = 11 decodes to the reserved instruction (30_encoding.md R41). -/
theorem decode_eq_reserved_iff : decode c = .reserved ↔ c.op = 0b11#2 := by
  obtain h | h | h | h := opSel_cases c.op
  · simp [decode_of_op_mul64 h, h]
  · simp [decode_of_op_shr128 h, h]
  · simp [decode_of_op_mod1e9 h, h]
  · simp [decode_of_op_reserved h, h]

theorem isReserved_eq_true_iff : c.isReserved = true ↔ c.op = 0b11#2 :=
  decide_eq_true_iff (p := c.op = opReserved)

theorem isReserved_eq_false_iff : c.isReserved = false ↔ c.op ≠ 0b11#2 :=
  decide_eq_false_iff_not (p := c.op = opReserved)

/-- Only the reserved instruction is encoded with op = 11. -/
theorem op_encode_reserved_iff {i : Instr} : (encode i).op = 0b11#2 ↔ i = .reserved := by
  cases i <;> simp [encode, opMul64, opShr128, opMod1e9, opReserved]

end Sys2Proof
end

