-- ==== Sys2Proof/Laws/State.lean ====
section
/-! SUPPORT. One lemma per field per update of the state, each true by rfl: no later proof unfolds a record update. -/

namespace Sys2Proof.Machine

/-! ### writeResult -/

@[simp] theorem writeResult_rHi (hi lo : Word) (s : State) :
    (writeResult hi lo s).rHi = hi := rfl
@[simp] theorem writeResult_rLo (hi lo : Word) (s : State) :
    (writeResult hi lo s).rLo = lo := rfl
@[simp] theorem writeResult_valid (hi lo : Word) (s : State) :
    (writeResult hi lo s).valid = true := rfl
@[simp] theorem writeResult_err (hi lo : Word) (s : State) :
    (writeResult hi lo s).err = s.err := rfl
@[simp] theorem writeResult_pend (hi lo : Word) (s : State) :
    (writeResult hi lo s).pend = s.pend := rfl
@[simp] theorem writeResult_todo (hi lo : Word) (s : State) :
    (writeResult hi lo s).todo = s.todo := rfl
@[simp] theorem writeResult_copies (hi lo : Word) (s : State) :
    (writeResult hi lo s).copies = s.copies := rfl
@[simp] theorem writeResult_draws (hi lo : Word) (s : State) :
    (writeResult hi lo s).draws = s.draws := rfl

/-! ### forgetResults -/

@[simp] theorem forgetResults_rHi (s : State) :
    (forgetResults s).rHi = Config.freeWord s.draws := rfl
@[simp] theorem forgetResults_rLo (s : State) :
    (forgetResults s).rLo = Config.freeWord (s.draws + 1) := rfl
@[simp] theorem forgetResults_valid (s : State) :
    (forgetResults s).valid = s.valid := rfl
@[simp] theorem forgetResults_err (s : State) :
    (forgetResults s).err = s.err := rfl
@[simp] theorem forgetResults_pend (s : State) :
    (forgetResults s).pend = s.pend := rfl
@[simp] theorem forgetResults_todo (s : State) :
    (forgetResults s).todo = s.todo := rfl
@[simp] theorem forgetResults_copies (s : State) :
    (forgetResults s).copies = s.copies := rfl
@[simp] theorem forgetResults_draws (s : State) :
    (forgetResults s).draws = s.draws + 2 := rfl

/-! ### raiseReservedOp -/

@[simp] theorem raiseReservedOp_rHi (s : State) :
    (raiseReservedOp s).rHi = Config.freeWord s.draws := rfl
@[simp] theorem raiseReservedOp_rLo (s : State) :
    (raiseReservedOp s).rLo = Config.freeWord (s.draws + 1) := rfl
@[simp] theorem raiseReservedOp_valid (s : State) :
    (raiseReservedOp s).valid = false := rfl
@[simp] theorem raiseReservedOp_err (s : State) :
    (raiseReservedOp s).err = true := rfl
@[simp] theorem raiseReservedOp_pend (s : State) :
    (raiseReservedOp s).pend = s.pend := rfl
@[simp] theorem raiseReservedOp_todo (s : State) :
    (raiseReservedOp s).todo = s.todo := rfl
@[simp] theorem raiseReservedOp_copies (s : State) :
    (raiseReservedOp s).copies = s.copies := rfl
@[simp] theorem raiseReservedOp_draws (s : State) :
    (raiseReservedOp s).draws = s.draws + 2 := rfl

/-! ### takeReset -/

@[simp] theorem takeReset_rHi (s : State) :
    (takeReset s).rHi = Config.freeWord s.draws := rfl
@[simp] theorem takeReset_rLo (s : State) :
    (takeReset s).rLo = Config.freeWord (s.draws + 1) := rfl
@[simp] theorem takeReset_valid (s : State) :
    (takeReset s).valid = false := rfl
@[simp] theorem takeReset_err (s : State) :
    (takeReset s).err = false := rfl
@[simp] theorem takeReset_pend (s : State) :
    (takeReset s).pend = none := rfl
@[simp] theorem takeReset_todo (s : State) :
    (takeReset s).todo = s.todo := rfl
@[simp] theorem takeReset_copies (s : State) :
    (takeReset s).copies = s.copies := rfl
@[simp] theorem takeReset_draws (s : State) :
    (takeReset s).draws = s.draws + 2 := rfl

/-! ### latch -/

@[simp] theorem latch_rHi (c : Command) (s : State) :
    (latch c s).rHi = Config.freeWord s.draws := rfl
@[simp] theorem latch_rLo (c : Command) (s : State) :
    (latch c s).rLo = Config.freeWord (s.draws + 1) := rfl
@[simp] theorem latch_valid (c : Command) (s : State) :
    (latch c s).valid = false := rfl
@[simp] theorem latch_err (c : Command) (s : State) :
    (latch c s).err = s.err := rfl
@[simp] theorem latch_pend (c : Command) (s : State) :
    (latch c s).pend = some c := rfl
@[simp] theorem latch_todo (c : Command) (s : State) :
    (latch c s).todo = s.todo := rfl
@[simp] theorem latch_copies (c : Command) (s : State) :
    (latch c s).copies = s.copies := rfl
@[simp] theorem latch_draws (c : Command) (s : State) :
    (latch c s).draws = s.draws + 2 := rfl

/-! ### release -/

@[simp] theorem release_rHi (s : State) :
    (release s).rHi = s.rHi := rfl
@[simp] theorem release_rLo (s : State) :
    (release s).rLo = s.rLo := rfl
@[simp] theorem release_valid (s : State) :
    (release s).valid = s.valid := rfl
@[simp] theorem release_err (s : State) :
    (release s).err = s.err := rfl
@[simp] theorem release_pend (s : State) :
    (release s).pend = none := rfl
@[simp] theorem release_todo (s : State) :
    (release s).todo = s.todo := rfl
@[simp] theorem release_copies (s : State) :
    (release s).copies = s.copies := rfl
@[simp] theorem release_draws (s : State) :
    (release s).draws = s.draws := rfl

/-! ### copyOut -/

@[simp] theorem copyOut_rHi (r : Reading) (s : State) :
    (copyOut r s).rHi = s.rHi := rfl
@[simp] theorem copyOut_rLo (r : Reading) (s : State) :
    (copyOut r s).rLo = s.rLo := rfl
@[simp] theorem copyOut_valid (r : Reading) (s : State) :
    (copyOut r s).valid = s.valid := rfl
@[simp] theorem copyOut_err (r : Reading) (s : State) :
    (copyOut r s).err = s.err := rfl
@[simp] theorem copyOut_pend (r : Reading) (s : State) :
    (copyOut r s).pend = s.pend := rfl
@[simp] theorem copyOut_todo (r : Reading) (s : State) :
    (copyOut r s).todo = s.todo := rfl
@[simp] theorem copyOut_copies (r : Reading) (s : State) :
    (copyOut r s).copies = s.copies ++ [r] := rfl
@[simp] theorem copyOut_draws (r : Reading) (s : State) :
    (copyOut r s).draws = s.draws := rfl

/-! ### dropMove -/

@[simp] theorem dropMove_rHi (s : State) :
    (dropMove s).rHi = s.rHi := rfl
@[simp] theorem dropMove_rLo (s : State) :
    (dropMove s).rLo = s.rLo := rfl
@[simp] theorem dropMove_valid (s : State) :
    (dropMove s).valid = s.valid := rfl
@[simp] theorem dropMove_err (s : State) :
    (dropMove s).err = s.err := rfl
@[simp] theorem dropMove_pend (s : State) :
    (dropMove s).pend = s.pend := rfl
@[simp] theorem dropMove_todo (s : State) :
    (dropMove s).todo = s.todo.tail := rfl
@[simp] theorem dropMove_copies (s : State) :
    (dropMove s).copies = s.copies := rfl
@[simp] theorem dropMove_draws (s : State) :
    (dropMove s).draws = s.draws := rfl

/-! ### pendingTurn -/

@[simp] theorem pendingTurn_rHi (c : Command) (s : State) :
    (pendingTurn c s).rHi = Config.freeWord s.draws := rfl
@[simp] theorem pendingTurn_rLo (c : Command) (s : State) :
    (pendingTurn c s).rLo = Config.freeWord (s.draws + 1) := rfl
@[simp] theorem pendingTurn_valid (c : Command) (s : State) :
    (pendingTurn c s).valid = false := rfl
@[simp] theorem pendingTurn_err (c : Command) (s : State) :
    (pendingTurn c s).err = s.err := rfl
@[simp] theorem pendingTurn_pend (c : Command) (s : State) :
    (pendingTurn c s).pend = some c := rfl
@[simp] theorem pendingTurn_todo (c : Command) (s : State) :
    (pendingTurn c s).todo = .block :: s.todo := rfl
@[simp] theorem pendingTurn_copies (c : Command) (s : State) :
    (pendingTurn c s).copies = s.copies := rfl
@[simp] theorem pendingTurn_draws (c : Command) (s : State) :
    (pendingTurn c s).draws = s.draws + 2 := rfl

/-! ### The state after reset, where the spec gives a value -/

@[simp] theorem reset_valid : State.reset.valid = false := rfl
@[simp] theorem reset_err : State.reset.err = false := rfl
@[simp] theorem reset_pend : State.reset.pend = none := rfl

end Sys2Proof.Machine
end

