-- ==== Sys2Proof/Laws/Ops.lean ====
section
/-! SUPPORT. For each shared operation, once, everything it can do: the lemmas that the provers cite instead of unfolding. -/

namespace Sys2Proof.Machine

variable {s t : State} {c : Command} {i : Instr}

theorem busy_eq_false_iff : s.busy = false ↔ s.pend = none := by
  simp [State.busy]

theorem busy_eq_true_iff : s.busy = true ↔ ∃ c, s.pend = some c := by
  simp [State.busy, Option.isSome_iff_exists]

/-! ### The output ports -/

/-- While VALID = 1 the result ports show the result registers (R82). -/
theorem outputs_of_valid (h : s.valid = true) :
    s.outputs = ⟨some s.rHi, some s.rLo, true, s.err, s.busy⟩ := by
  simp [State.outputs, h]

/-- While VALID = 0 the result ports show no value (R82). -/
theorem outputs_of_invalid (h : s.valid = false) : s.outputs = ⟨none, none, false, s.err, s.busy⟩ := by
  simp [State.outputs, h]

/-! ### The host's moves -/

theorem hostIssue_of_idle (h : s.pend = none) : hostIssue c s = .next (latch c s) := by
  simp [hostIssue, busy_eq_false_iff.mpr h]

theorem hostIssue_of_busy {c' : Command} (h : s.pend = some c') :
    hostIssue c s = .refused .startWhileBusy := by
  simp [hostIssue, busy_eq_true_iff.mpr ⟨c', h⟩]

/-- All that an issue can do. -/
theorem hostIssue_cases :
    (s.pend = none ∧ hostIssue c s = .next (latch c s)) ∨
      (∃ c', s.pend = some c' ∧ hostIssue c s = .refused .startWhileBusy) := by
  cases h : s.pend with
  | none => exact .inl ⟨rfl, hostIssue_of_idle h⟩
  | some c' => exact .inr ⟨c', rfl, hostIssue_of_busy h⟩

theorem hostReadHi_of_valid (h : s.valid = true) :
    hostReadHi s = .next (copyOut (.hi s.rHi) s) := by simp [hostReadHi, h]

theorem hostReadHi_of_invalid (h : s.valid = false) :
    hostReadHi s = .refused .readWhileInvalid := by simp [hostReadHi, h]

theorem hostReadLo_of_valid (h : s.valid = true) :
    hostReadLo s = .next (copyOut (.lo s.rLo) s) := by simp [hostReadLo, h]

theorem hostReadLo_of_invalid (h : s.valid = false) :
    hostReadLo s = .refused .readWhileInvalid := by simp [hostReadLo, h]

/-! ### Executing an instruction -/

/-- All that an instruction can do: a legal one writes the result that its answer puts on the ports, the reserved one raises
ReservedOp. None stops. -/
theorem exec_cases (i : Instr) (s : State) :
    (∃ hi lo, i ≠ .reserved ∧ (answer i).onPorts = some (hi, lo) ∧ exec i s = .next (writeResult hi lo s)) ∨
      (i = .reserved ∧ (answer i).onPorts = none ∧ exec i s = .next (raiseReservedOp s)) := by
  cases i with
  | mul64 x y => exact .inl ⟨_, _, nofun, rfl, rfl⟩
  | shr128 hi lo dist => exact .inl ⟨_, _, nofun, rfl, rfl⟩
  | mod1e9 hi lo => exact .inl ⟨_, _, nofun, rfl, rfl⟩
  | reserved => exact .inr ⟨rfl, rfl, rfl⟩

/-- An instruction always answers a next state, and leaves the pending command, the moves to come and the host's copies
alone. -/
theorem exec_next (i : Instr) (s : State) :
    ∃ t, exec i s = .next t ∧ t.pend = s.pend ∧ t.todo = s.todo ∧ t.copies = s.copies := by
  obtain ⟨hi, lo, -, -, h⟩ | ⟨-, -, h⟩ := exec_cases i s <;> exact ⟨_, h, rfl, rfl, rfl⟩

/-! ### The block's turn -/

theorem blockTurn_idle (h : s.pend = none) : blockTurn s = .next s := by simp [blockTurn, h]

theorem blockTurn_busy (h : s.pend = some c) : blockTurn s = exec (decode c) (release s) := by
  simp [blockTurn, h]

/-- All that the block's turn can do: rest, or complete the pending command. -/
theorem blockTurn_cases (h : blockTurn s = .next t) :
    (s.pend = none ∧ t = s) ∨
      (∃ c hi lo, s.pend = some c ∧ decode c ≠ .reserved ∧ (answer (decode c)).onPorts = some (hi, lo) ∧
        t = writeResult hi lo (release s)) ∨
      (∃ c, s.pend = some c ∧ decode c = .reserved ∧ t = raiseReservedOp (release s)) := by
  cases hp : s.pend with
  | none => rw [blockTurn_idle hp] at h; cases h; exact .inl ⟨rfl, rfl⟩
  | some c =>
    rw [blockTurn_busy hp] at h
    obtain ⟨hi, lo, hr, ha, he⟩ | ⟨hr, -, he⟩ := exec_cases (decode c) (release s) <;>
      rw [he] at h <;> cases h
    · exact .inr (.inl ⟨c, hi, lo, rfl, hr, ha, rfl⟩)
    · exact .inr (.inr ⟨c, rfl, hr, rfl⟩)

end Sys2Proof.Machine
end

