-- ==== Sys2Proof/Laws/PerInstr.lean ====
section
/-! SUPPORT. Statements made per instruction, about the instruction as syntax: its encoding has the operation's select code
and 0 in every field that the operation ignores (30_encoding.md R38, R40, R45). -/

namespace Sys2Proof.Laws.CanonicalFields

/-- The select code of R38. -/
def selectCode : Instr → OpSel
  | .mul64 _ _ => 0b00#2
  | .shr128 _ _ _ => 0b01#2
  | .mod1e9 _ _ => 0b10#2
  | .reserved => 0b11#2

/-- `encode` gives the select code of R38 and writes ignored fields as 0 (R45, R47). -/
def Statement (i : Instr) : Prop :=
  (encode i).op = selectCode i ∧ (encode i).canonical = encode i

theorem mul64 (x y : Word) : Statement (.mul64 x y) := ⟨rfl, rfl⟩

theorem shr128 (hi lo : Word) (dist : Dist) : Statement (.shr128 hi lo dist) := ⟨rfl, rfl⟩

theorem mod1e9 (hi lo : Word) : Statement (.mod1e9 hi lo) := ⟨rfl, rfl⟩

theorem reserved : Statement .reserved := ⟨rfl, rfl⟩

end Sys2Proof.Laws.CanonicalFields
end

