-- ==== Sys2Proof/Laws/Step.lean ====
section
/-! SUPPORT. What one step can do, said once: one case per row of 70_reset_and_hazards.md R87. -/

namespace Sys2Proof.Machine

variable {s t : State}

theorem step_of_nil (h : s.todo = []) : step s = blockTurn s := by
  have hs : dropMove s = s := by cases s; simp_all [dropMove]
  simp [step, nextMove, h, takeMove, hs]

theorem step_of_cons {m : Move} {rest : List Move} (h : s.todo = m :: rest) :
    step s = takeMove m { s with todo := rest } := by
  simp [step, nextMove, dropMove, h]

/-- Every step that answers a next state is one of these, with `u` the state less the move taken. -/
theorem step_cases (h : step s = .next t) :
    (∃ c, nextMove s = .issue c ∧ s.pend = none ∧ t = latch c (dropMove s)) ∨
    (nextMove s = .readStatus ∧ t = copyOut (.status (dropMove s).status) (dropMove s)) ∨
    (nextMove s = .readHi ∧ s.valid = true ∧ t = copyOut (.hi s.rHi) (dropMove s)) ∨
    (nextMove s = .readLo ∧ s.valid = true ∧ t = copyOut (.lo s.rLo) (dropMove s)) ∨
    (nextMove s = .block ∧ blockTurn (dropMove s) = .next t) ∨
    (nextMove s = .reset ∧ t = takeReset (dropMove s)) := by
  unfold step at h
  cases hm : nextMove s with
  | issue c =>
    rw [hm] at h
    obtain ⟨hp, he⟩ | ⟨c', -, he⟩ := hostIssue_cases (s := dropMove s) (c := c) <;>
      simp only [takeMove, he] at h <;> cases h
    exact .inl ⟨c, rfl, hp, rfl⟩
  | readStatus => rw [hm] at h; cases h; exact .inr (.inl ⟨rfl, rfl⟩)
  | readHi =>
    rw [hm] at h
    cases hv : s.valid with
    | true =>
      simp only [takeMove, hostReadHi_of_valid (s := dropMove s) hv] at h
      cases h; exact .inr (.inr (.inl ⟨rfl, rfl, rfl⟩))
    | false => simp only [takeMove, hostReadHi_of_invalid (s := dropMove s) hv] at h; cases h
  | readLo =>
    rw [hm] at h
    cases hv : s.valid with
    | true =>
      simp only [takeMove, hostReadLo_of_valid (s := dropMove s) hv] at h
      cases h; exact .inr (.inr (.inr (.inl ⟨rfl, rfl, rfl⟩)))
    | false => simp only [takeMove, hostReadLo_of_invalid (s := dropMove s) hv] at h; cases h
  | block => rw [hm] at h; exact .inr (.inr (.inr (.inr (.inl ⟨rfl, h⟩))))
  | reset => rw [hm] at h; cases h; exact .inr (.inr (.inr (.inr (.inr ⟨rfl, rfl⟩))))

end Sys2Proof.Machine
end

