-- ==== Sys2Proof/Laws/Run.lean ====
section
/-! SUPPORT. Several steps in a row, one at a time. -/

namespace Sys2Proof.Machine

variable {n : Nat} {s t : State}

theorem runSteps_zero : runSteps 0 s = .next s := by
  rfl

/-- A first step that goes on is followed by the rest of the run. -/
theorem runSteps_of_next (h : step s = .next t) : runSteps (n + 1) s = runSteps n t := by
  simp [runSteps, Host.Core.run, Sys2Proof.core, h]

/-- A first step that is refused ends the run. -/
theorem runSteps_of_refused {r : Refusal} (h : step s = .refused r) : runSteps (n + 1) s = .refused r := by
  simp [runSteps, Host.Core.run, Sys2Proof.core, h]

/-- A run of one step is that step. -/
theorem runSteps_one : runSteps 1 s = step s := by
  cases h : step s with
  | next t => rw [runSteps_of_next h, runSteps_zero]
  | fault r => cases r
  | refused r => rw [runSteps_of_refused h]

end Sys2Proof.Machine
end

