-- ==== Sys2Proof/Laws/Words.lean ====
section
/-! SUPPORT. The integers behind the operand forms: each helper of Machine/Operands.lean as a natural number, with its
bound. -/

namespace Sys2Proof.Machine

theorem wide_lt (hi lo : Word) : wide hi lo < 2 ^ 128 := by
  have := hi.isLt; have := lo.isLt
  simp only [wide]; omega

theorem lowHalf_toNat (v : Nat) : (lowHalf v).toNat = v % 2 ^ 64 := by
  simp [lowHalf]

theorem highHalf_toNat {v : Nat} (h : v < 2 ^ 128) : (highHalf v).toNat = v / 2 ^ 64 := by
  simp only [highHalf, BitVec.toNat_ofNat]; omega

theorem wide_halves {v : Nat} (h : v < 2 ^ 128) : wide (highHalf v) (lowHalf v) = v := by
  simp only [wide, highHalf_toNat h, lowHalf_toNat]; omega

theorem product_lt (x y : Word) : product x y < 2 ^ 128 := by
  have hx := x.isLt; have hy := y.isLt
  calc product x y < 2 ^ 64 * 2 ^ 64 := Nat.mul_lt_mul'' hx hy
    _ = 2 ^ 128 := by norm_num

theorem effectiveDist_lt (d : Dist) : effectiveDist d < 64 := Nat.mod_lt _ (by decide)

theorem shifted_lt (hi lo : Word) (d : Dist) : shifted hi lo d < 2 ^ 128 :=
  lt_of_le_of_lt (Nat.div_le_self _ _) (wide_lt hi lo)

theorem remainder_lt (hi lo : Word) : remainder hi lo < 1000000000 := Nat.mod_lt _ (by decide)

end Sys2Proof.Machine
end

