-- ==== Sys2Proof/Tests/Slice0.lean ====
section
/-! SUPPORT. The model's own tests. Expected results are the spec's vectors (95_test_vectors.md) or hand arithmetic from its
rules; each names its source. Then a witness for the hypotheses of every obligation that has any. -/

namespace Sys2Proof.Tests

open Sys2Proof Sys2Proof.Machine

/-- A small state: registers as given, not busy, nothing to come. -/
def st (hi lo : Word) (valid err : Bool) : State :=
  { rHi := hi, rLo := lo, valid := valid, err := err, pend := none, todo := [], copies := [], draws := 9 }

/-- The visible part of what an instruction or a step leaves: R_HI, R_LO, VALID, ERR. -/
def seen : Host.Outcome State Fault Refusal → Option (Word × Word × Bool × Bool)
  | .next t => some (t.rHi, t.rLo, t.valid, t.err)
  | _ => none

/-- The flags alone, where the registers hold no defined value. -/
def flags : Host.Outcome State Fault Refusal → Option (Bool × Bool × Bool)
  | .next t => some (t.valid, t.err, t.busy)
  | _ => none

/-! ### Decoding: words written out field by field from 30_encoding.md R37, R38 -/

/-- op 00, dist FF (ignored), b = FEDCBA987654321, a = 123456789ABCDEF0 (MUL-17). -/
theorem test_decode_mul64 : decodeWord
    (0b00#2 ++ 0xFF#8 ++ 0x0FEDCBA987654321#64 ++ 0x123456789ABCDEF0#64) =
    .mul64 0x123456789ABCDEF0 0x0FEDCBA987654321 := by decide

/-- op 01, dist C5, b = hi = 0, a = lo all ones (ST-7). -/
theorem test_decode_shr128 : decodeTableWord 138 0x1C50000000000000000FFFFFFFFFFFFFFFF =
    some (.shr128 0 0xFFFFFFFFFFFFFFFF 197) := by decide

/-- op 10, dist 40 (ignored), b = hi, a = lo (MOD-20). -/
theorem test_decode_mod1e9 : decodeTableWord 138 0x2400123456789ABCDEFFEDCBA9876543210 =
    some (.mod1e9 0x0123456789ABCDEF 0xFEDCBA9876543210) := by decide

/-- op 11, every other bit 1 (ST-3). -/
theorem test_decode_reserved : decodeTableWord 138 0x3FFFFFFFFFFFFFFFFFFFFFFFFFFFFFFFFFF = some .reserved := by
  decide

/-- The bits of the one format, written out one group at a time (R37): SHR128 1, 2, 3. -/
theorem test_decode_bits : decodeWord
    ((1#138 <<< 136) ||| (3#138 <<< 128) ||| (1#138 <<< 64) ||| 2#138) = .shr128 1 2 3 := by decide

/-- A bit above bit 137 is no part of a command (R37). -/
theorem test_decode_refuses_bit_138 : decodeNumeral (2 ^ 138) = .error .bitsAboveCommand := by decide

/-- The last numeral that is a command. -/
theorem test_decode_last_numeral : decodeNumeral (2 ^ 138 - 1) = .ok .reserved := by decide

/-- P1, step 2, as the spec packs it: `SHR128 5, 0x6BC75E2D63100000, 20`. -/
theorem test_encode_shr128 :
    (encodeWord (.shr128 5 0x6BC75E2D63100000 20)).toNat = 0x11400000000000000056BC75E2D63100000 := by decide

/-- P5, step 1, as the spec packs it. -/
theorem test_encode_mul64 :
    (encodeWord (.mul64 0x0123456789ABCDEF 0x31680A88F8953031)).toNat =
      0x00031680A88F89530310123456789ABCDEF := by decide

/-! ### The four instructions -/

/-- MUL-9: the unsigned check. -/
theorem test_mul64_unsigned : seen (exec (.mul64 0xFFFFFFFFFFFFFFFF 2) (st 7 8 true true)) =
    some (1, 0xFFFFFFFFFFFFFFFE, true, true) := by decide

/-- MUL-14: a general product. -/
theorem test_mul64_general : seen (exec (.mul64 0x123456789ABCDEF0 0x0FEDCBA987654321) (st 0 0 false false)) =
    some (0x0121FA00AD77D742, 0x2236D88FE5618CF0, true, false) := by decide

/-- SHR-7: distance 64 returns lo, not hi. -/
theorem test_shr128_distance_64 :
    seen (exec (.shr128 0x0123456789ABCDEF 0xFEDCBA9876543210 64) (st 7 8 false false)) =
    some (0, 0xFEDCBA9876543210, true, false) := by decide

/-- SHR-12: distance 255 acts as 63. -/
theorem test_shr128_distance_255 :
    seen (exec (.shr128 0x0123456789ABCDEF 0xFEDCBA9876543210 255) (st 7 8 false true)) =
    some (0, 0x02468ACF13579BDF, true, true) := by decide

/-- MOD-8: the first value where a reciprocal scaled by 2^89 is wrong. -/
theorem test_mod1e9_reciprocal_trap : seen (exec (.mod1e9 0 0x0F9B0B1CF79815FF) (st 7 8 false false)) =
    some (0, 999999999, true, false) := by decide

/-- MOD-14: the last nine decimal digits. -/
theorem test_mod1e9_general : seen (exec (.mod1e9 0x000000018EE90FF6 0xC373E0EE4E3F0AD2) (st 7 8 true false)) =
    some (0, 234567890, true, false) := by decide

/-- ST-3: ERR 1, VALID 0, whatever stood before. -/
theorem test_reserved_sets_err : flags (exec .reserved (st 1 2 true false)) = some (false, true, false) := by decide

/-- ST-4: a legal command while ERR = 1. -/
theorem test_err_does_not_block : seen (exec (.mul64 7 6) (st 1 2 false true)) = some (0, 42, true, true) := by decide

/-! ### Steps, reset, status, reads -/

/-- ST-6 as the first instruction after reset: `MOD1E9 0, 1000000000`. -/
theorem test_step_after_reset :
    seen (step (State.reset.withFetchWord 138 0x2000000000000000000000000003B9ACA00)) =
      some (0, 0, true, false) := by decide

/-- ST-2 as the first instruction after reset. -/
theorem test_step_reserved_after_reset :
    flags (step (State.reset.withFetchWord 138 0x30000000000000000000000000000000000)) =
      some (false, true, false) := by decide

/-- ST-5: only reset clears ERR. -/
theorem test_reset_clears_err :
    flags (step { st 1 2 true true with todo := [.reset] }) = some (false, false, false) := by decide

/-- R20: VALID is bit 0, ERR bit 1, busy bit 2. -/
theorem test_status_bits : (st 1 2 true true).status = 0b011#3 ∧
    { st 1 2 false false with pend := some ⟨0, 0, 0, 0⟩ }.status = 0b100#3 := by decide

/-- R81: start while busy is refused. -/
theorem test_start_while_busy :
    hostIssue ⟨0, 0, 0, 0⟩ { st 1 2 false false with pend := some ⟨0, 0, 0, 0⟩ } = .refused .startWhileBusy := by
  rfl

/-- R82: a read while VALID = 0 is refused. -/
theorem test_read_while_invalid : hostReadLo (st 1 2 false false) = .refused .readWhileInvalid := by rfl

/-- What the host has copied after a run. -/
def copied : Host.Outcome State Fault Refusal → Option (List Reading × Bool)
  | .next t => some (t.copies, t.err)
  | _ => none

/-- P3, step 4, by moves: a reserved command, then `MUL64 7, 6`, and the host reads R_LO. -/
theorem test_read_after_two_commands :
    copied (runSteps 5 { st 1 2 false false with
      todo := [.issue ⟨3, 0, 0, 0⟩, .block, .issue ⟨0, 0, 6, 7⟩, .block, .readLo] }) = some ([.lo 42], true) := by
  decide

/-- The flags of every instance after a step of one. -/
def errs : Host.Outcome (List State) Fault Refusal → Option (List Bool)
  | .next l => some (l.map (·.err))
  | _ => none

/-- R72: the second of two instances is reset, the first stays as it was. -/
theorem test_second_instance_moves :
    errs (stepAt 1 [st 1 2 true true, { st 3 4 true true with todo := [.reset] }]) = some [true, false] := by decide

/-- R44: the typed answers of MUL-9, SHR-3 and MOD-10. -/
theorem test_answers :
    answer (.mul64 0xFFFFFFFFFFFFFFFF 2) = .pair 1 0xFFFFFFFFFFFFFFFE ∧
    answer (.shr128 0x0123456789ABCDEF 0xFEDCBA9876543210 1) = .word 0xFF6E5D4C3B2A1908 ∧
    answer (.mod1e9 0 0xFFFFFFFFFFFFFFFF) = .number 709551615 := by decide

/-- R79, R82: the ports while VALID = 1, and while a command is pending. -/
theorem test_outputs : (st 1 2 true true).outputs = ⟨some 1, some 2, true, true, false⟩ ∧
    { st 1 2 false true with pend := some ⟨0, 0, 0, 0⟩ }.outputs = ⟨none, none, false, true, true⟩ := by decide

/-- R86: a listed start means the run goes on, a listed read does not. -/
theorem test_ended : { st 1 2 true false with todo := [.readLo] }.goodEnd = true ∧
    { st 1 2 true false with todo := [.readLo, .issue ⟨0, 0, 6, 7⟩] }.ended = false ∧
    { st 1 2 true false with todo := [.readLo, .reset, .issue ⟨0, 0, 6, 7⟩] }.goodEnd = true := by decide

/-! ### The assembler and its checks (30_encoding.md R45, R46) -/

/-- P1 as a listing: S = 5^20, and the run's end state. -/
theorem test_listing_p1 :
    (runListing
      [⟨.mul64 (.numeral 0x0DE0B6B3A7640000) (.numeral 0x64), ["H", "L"]⟩,
       ⟨.shr128 (.name "H") (.name "L") (.numeral 20), ["S"]⟩] [] (st 1 2 false false)).map
      (fun r => (r.1.lookup "S", r.2.rHi, r.2.rLo, r.2.err)) =
    some (some 95367431640625, 0, 95367431640625, false) := by decide

/-- P1, step 2, as the spec writes it; digits grouped as R7 allows and a comment as R45 allows. -/
theorem test_parse_shr128 :
    parseLine "SHR128 H, 0x6BC7_5E2D_6310_0000, 20 -> S ; P1, step 2".toList =
      some ⟨.shr128 (.name "H") (.numeral 0x6BC75E2D63100000) (.numeral 20), ["S"]⟩ := by decide

/-- P5, step 6, as the spec writes it. -/
theorem test_assemble_text_mul64 :
    assembleText [("Q", 81985529)] "MUL64 Q, 1000000000 -> HP, LP" =
      some 0x000000000003B9ACA000000000004E2FFF9 := by decide

theorem test_parse_refuses_missing_operand : parseLine "SHR128 1, 2".toList = none := by decide

theorem test_assemble_mod1e9_high_half_first :
    assemble [] (.mod1e9 (.numeral 1) (.numeral 2)) = .ok ⟨0b10#2, 0, 1, 2⟩ := by rfl

theorem test_assemble_refuses_distance_256 :
    assemble [] (.shr128 (.numeral 1) (.numeral 2) (.numeral 256)) = .error .distanceOutOfRange := by rfl

theorem test_wf_accepts_p1 :
    listingWellFormed []
      [⟨.mul64 (.numeral 0x0DE0B6B3A7640000) (.numeral 0x64), ["H", "L"]⟩,
       ⟨.shr128 (.name "H") (.name "L") (.numeral 20), ["S"]⟩] = true := by decide

theorem test_wf_refuses_mul64_operand :
    AsmCmd.wellFormed [] (.mul64 (.numeral (2 ^ 64)) (.numeral 0)) = false ∧
    AsmCmd.wellFormed [] (.mul64 (.numeral 0) (.numeral (2 ^ 64))) = false := by decide

theorem test_wf_refuses_shr128_operand :
    AsmCmd.wellFormed [] (.shr128 (.numeral (2 ^ 64)) (.numeral 0) (.numeral 0)) = false ∧
    AsmCmd.wellFormed [] (.shr128 (.numeral 0) (.numeral (2 ^ 64)) (.numeral 0)) = false ∧
    AsmCmd.wellFormed [] (.shr128 (.numeral 0) (.numeral 0) (.numeral 256)) = false := by decide

theorem test_wf_refuses_mod1e9_operand :
    AsmCmd.wellFormed [] (.mod1e9 (.numeral (2 ^ 64)) (.numeral 0)) = false ∧
    AsmCmd.wellFormed [] (.mod1e9 (.numeral 0) (.numeral (2 ^ 64))) = false := by decide

theorem test_wf_refuses_unbound_name :
    AsmCmd.wellFormed ["H"] (.mod1e9 (.name "H") (.name "L")) = false := by decide

theorem test_wf_refuses_wrong_arrow :
    Line.bindsWellFormed ⟨.mul64 (.numeral 1) (.numeral 1), ["N"]⟩ = false ∧
    Line.bindsWellFormed ⟨.shr128 (.numeral 1) (.numeral 1) (.numeral 1), ["H", "L"]⟩ = false ∧
    Line.bindsWellFormed ⟨.mod1e9 (.numeral 1) (.numeral 1), ["H", "L"]⟩ = false ∧
    Line.bindsWellFormed ⟨.reserved, ["N"]⟩ = false := by decide

theorem test_wf_refuses_name_before_its_line :
    listingWellFormed []
      [⟨.shr128 (.name "H") (.numeral 0) (.numeral 20), []⟩,
       ⟨.mul64 (.numeral 1) (.numeral 1), ["H", "L"]⟩] = false := by decide

/-! ### Witnesses: the hypotheses of the obligations can be met -/

/-- A pending SHR128 with the moves given still to come. -/
def busySt (todo : List Move) : State :=
  { st 1 2 false false with pend := some ⟨1, 4, 3, 5⟩, todo := todo }

theorem witness_DecodeByOpForgetsIgnored :
    (0#138).extractLsb' 136 2 = 0b00#2 ∧ (1#138 <<< 136).extractLsb' 136 2 = 0b01#2 ∧
    (2#138 <<< 136).extractLsb' 136 2 = 0b10#2 ∧ (3#138 <<< 136).extractLsb' 136 2 = 0b11#2 ∧
    (0x05#8).extractLsb' 0 6 = (0xC5#8).extractLsb' 0 6 := by decide

theorem witness_EncodeOfDecodeClearsIgnored :
    (0xFF#138 <<< 128).extractLsb' 136 2 = 0b00#2 ∧ (0x1FF#138 <<< 128).extractLsb' 136 2 = 0b01#2 ∧
    (0x2FF#138 <<< 128).extractLsb' 136 2 = 0b10#2 ∧ (0x3FF#138 <<< 128).extractLsb' 136 2 = 0b11#2 := by decide

theorem witness_NumeralDecodesIffInCommandWidth : 2 ^ 138 - 1 < 2 ^ 138 ∧ 2 ^ 138 ≤ 2 ^ 138 := by decide

theorem witness_IgnoredFieldsChangeNothing : (0x3F#8).extractLsb' 0 6 = (0xFF#8).extractLsb' 0 6 := by decide

theorem witness_OnlyOpElevenIsIllegal :
    (3#138 <<< 136).extractLsb' 136 2 = 0b11#2 ∧ (2#138 <<< 136).extractLsb' 136 2 ≠ 0b11#2 ∧
    64 ≤ (64#8).toNat ∧ 64 ≤ (255#8).toNat := by decide

theorem witness_Mul64WritesExactProduct :
    ∃ x y : Word, (x = 0 ∨ y = 0) ∧ y = 1 := ⟨0, 1, .inl rfl, rfl⟩

theorem witness_Mul64UnsignedAgreesWithSignedBelowTwoTo63 :
    (0x7FFFFFFFFFFFFFFF#64).toNat < 2 ^ 63 ∧ (2#64).toNat < 2 ^ 63 := by decide

theorem witness_Shr128WritesLowWord :
    (192#8).toNat % 64 = 0 ∧ (63#8).toNat % 64 ≠ 0 ∧
    (0x8000000000000001#64).toNat % 2 ^ ((63#8).toNat % 64) = (1#64).toNat % 2 ^ ((63#8).toNat % 64) := by decide

theorem witness_Shr128HalfWiseForm :
    (1#8).toNat % 64 ≠ 0 ∧ (255#8).toNat % 64 ≠ 0 ∧ (0#8).toNat % 64 = 0 ∧ (64#8).toNat % 64 = 0 ∧
    0 < 64 - (255#8).toNat % 64 ∧ 64 - (255#8).toNat % 64 ≤ 63 := by decide

theorem witness_Shr128Laws :
    (0x3F#8).extractLsb' 0 6 = (0xFF#8).extractLsb' 0 6 ∧
    (∀ k, k < (1#8).toNat % 64 → (3#64).getLsbD k = (1#64).getLsbD k) ∧
    (1#64).toNat < 2 ^ ((1#8).toNat % 64) ∧
    (31#8).toNat % 64 + (32#8).toNat % 64 < 64 := by decide

theorem witness_Shr128IsNoFullWidthShifter :
    (1#64) ≠ 2#64 ∧ 2 ^ ((63#8).toNat % 64) ≤ (0x8000000000000000#64).toNat := by decide

theorem witness_Mod1e9WritesExactRemainder :
    (0#64).toNat * 2 ^ 64 + (999999999#64).toNat < 1000000000 := by decide

theorem witness_Mod1e9Laws : (8 < 9) ∧ (9 ≤ 9) := by decide

theorem witness_ReciprocalAt89FirstFails :
    (0#64).toNat * 2 ^ 64 + (1124504750999999998#64).toNat < 1124504750999999999 ∧
    (0#64).toNat * 2 ^ 64 + (1124504750999999999#64).toNat = 1124504750999999999 := by decide

theorem witness_ReservedRaisesReservedOp : (⟨3, 1, 2, 3⟩ : Command).op = 0b11#2 := by decide

theorem witness_ErrIsStickyAndDoesNotBlock :
    (st 1 2 true true).err = true ∧ nextMove (st 1 2 true true) ≠ .reset ∧
    step (st 1 2 true true) = .next (st 1 2 true true) ∧ Instr.mul64 1 2 ≠ .reserved := by
  refine ⟨rfl, by decide, rfl, by decide⟩

theorem witness_LegalInstructionsNeverStop : Instr.shr128 1 2 3 ≠ .reserved := by decide

theorem witness_ResultsDependOnOperandsOnly : Instr.mod1e9 1 2 ≠ .reserved := by decide

theorem witness_ResetClearsFlagsAndBusy :
    (busySt [.reset, .readStatus]).todo = .reset :: [.readStatus] := by decide

theorem witness_ResetAbandonsPendingCommand :
    (busySt [.reset, .block]).pend = some ⟨1, 4, 3, 5⟩ ∧ (busySt [.reset, .block]).todo = .reset :: .block :: [] := by
  decide

theorem witness_StepExecutesPendingCommand :
    (busySt []).pend = some ⟨1, 4, 3, 5⟩ ∧ (busySt []).todo = [] ∧
    (busySt [.block]).todo = .block :: [] ∧
    (st 1 2 true false).pend = none ∧ (st 1 2 true false).todo = [] ∧
    { st 1 2 true false with todo := [.block] }.todo = .block :: [] := by decide

theorem witness_IssueLatchesCommand :
    { st 1 2 true false with todo := [.issue ⟨0, 0, 6, 7⟩] }.pend = none ∧
    { st 1 2 true false with todo := [.issue ⟨0, 0, 6, 7⟩] }.todo = .issue ⟨0, 0, 6, 7⟩ :: [] := by decide

theorem witness_ReadsHaveNoSideEffect :
    (busySt [.readStatus]).todo = .readStatus :: [] ∧ (st 1 2 true false).valid = true ∧
    { st 1 2 true false with todo := [.readHi] }.todo = .readHi :: [] ∧
    { st 1 2 true false with todo := [.readLo, .readLo] }.todo = .readLo :: .readLo :: [] := by decide

theorem witness_ValidOnlyWhileIdleIsKept :
    (st 1 2 true false).validIsIdle ∧ step (st 1 2 true false) = .next (st 1 2 true false) :=
  ⟨fun _ => rfl, rfl⟩

theorem witness_ErrChangesOnlyByReservedOrReset :
    (∃ s t : State, step s = .next t ∧ s.err = false ∧ t.err = true) ∧
    (∃ s t : State, step s = .next t ∧ s.err = true ∧ t.err = false) :=
  ⟨⟨{ st 1 2 false false with pend := some ⟨3, 0, 0, 0⟩ }, _, rfl, rfl, rfl⟩,
   ⟨{ st 1 2 true true with todo := [.reset] }, _, rfl, rfl, rfl⟩⟩

theorem witness_ValidRisesOnlyWithTheResult :
    ∃ s t : State, step s = .next t ∧ s.valid = false ∧ t.valid = true :=
  ⟨busySt [], _, rfl, rfl, rfl⟩

theorem witness_ResultsChangeOnlyByCompletionResetOrIssue :
    (∃ s t : State, step s = .next t ∧ (t.rHi ≠ s.rHi ∨ t.rLo ≠ s.rLo) ∧
      (t.outputs.rHi ≠ none ∧ t.outputs.rHi ≠ s.outputs.rHi)) ∧
    (∃ s t : State, step s = .next t ∧ nextMove s = .reset) ∧
    (∃ s t : State, step s = .next t ∧ ∃ c, nextMove s = .issue c) :=
  ⟨⟨busySt [], _, rfl, .inl (by decide), by decide, by decide⟩,
   ⟨busySt [.reset], _, rfl, rfl⟩,
   ⟨{ st 1 2 true false with todo := [.issue ⟨0, 0, 6, 7⟩] }, _, rfl, _, rfl⟩⟩

theorem witness_PendingCommandIsStable :
    ∃ t, (busySt [.readStatus]).pend = some ⟨1, 4, 3, 5⟩ ∧ step (busySt [.readStatus]) = .next t :=
  ⟨_, rfl, rfl⟩

theorem witness_HandshakeRefinesAtomicStep :
    { st 1 2 true false with todo := [.issue ⟨0, 0, 6, 7⟩, .block] }.pend = none ∧
    { st 1 2 true false with todo := [.issue ⟨0, 0, 6, 7⟩, .block] }.todo =
      .issue ⟨0, 0, 6, 7⟩ :: .block :: [] := by decide

theorem witness_EveryIssuedCommandCompletes :
    (busySt [.readStatus, .readStatus]).pend = some ⟨1, 4, 3, 5⟩ ∧
    (busySt [.readStatus, .readStatus]).todo = List.replicate 2 .readStatus := by decide

theorem witness_RunOfCommandsEndsWithLastResult :
    { st 1 2 true false with todo := commandMoves [⟨3, 0, 0, 0⟩, ⟨0, 0, 6, 7⟩] ++ [Move.readLo] }.pend = none ∧
    { st 1 2 true false with todo := commandMoves [⟨3, 0, 0, 0⟩, ⟨0, 0, 6, 7⟩] ++ [Move.readLo] }.todo =
      commandMoves ([⟨3, 0, 0, 0⟩] ++ [⟨0, 0, 6, 7⟩]) ++ [Move.readLo] := by decide

theorem witness_RunFromResetEndsGood :
    (busySt (.reset :: (commandMoves [⟨0, 0, 6, 7⟩] ++ [.readLo, .reset, .issue ⟨1, 4, 3, 5⟩]))).todo =
      .reset :: (commandMoves [⟨0, 0, 6, 7⟩] ++ [.readLo, .reset, .issue ⟨1, 4, 3, 5⟩]) ∧
    (∀ c, Move.issue c ∉ [Move.readLo, Move.reset, Move.issue ⟨1, 4, 3, 5⟩].takeWhile (· != .reset)) ∧
    (busySt [.reset]).todo = .reset :: (commandMoves [] ++ []) ∧
    (∀ c, Move.issue c ∉ ([] : List Move).takeWhile (· != .reset)) := by
  refine ⟨rfl, fun c (h : Move.issue c ∈ [Move.readLo]) => ?_, rfl, ?_⟩
  · simp at h
  · simp

theorem witness_InstancesShareNothing :
    ∃ t bs, [st 1 2 true false, busySt []][1]? = some (busySt []) ∧ step (busySt []) = .next t ∧
      stepAt 1 [st 1 2 true false, busySt []] = .next bs :=
  ⟨_, _, rfl, rfl, rfl⟩

theorem witness_AssemblerChecksRanges :
    2 ^ 64 - 1 < 2 ^ 64 ∧ (2 ^ 64 ≤ 2 ^ 64 ∨ 2 ^ 64 ≤ 0) ∧ 255 < 256 ∧ 256 ≤ 256 := by decide

theorem witness_WellFormedLinesAssemble :
    AsmCmd.wellFormed ([("H", (300 : Word))].map Prod.fst) (.shr128 (.numeral 0) (.name "H") (.name "H")) = true := by
  decide

theorem witness_MultiplyAndShiftListing : (st 1 2 true true).pend = none := rfl

theorem witness_OutputPortsShowResultsOnlyWhileValid :
    (st 1 2 true false).valid = true ∧ (st 1 2 false false).valid = false ∧
    (busySt []).pend = some ⟨1, 4, 3, 5⟩ ∧ (busySt []).validIsIdle :=
  ⟨rfl, rfl, rfl, nofun⟩

theorem witness_OnlyHostErrorsAreRefused :
    step (busySt [.issue ⟨0, 0, 0, 0⟩]) = .refused .startWhileBusy ∧
    step (busySt [.readHi]) = .refused .readWhileInvalid := ⟨rfl, rfl⟩

end Sys2Proof.Tests
end

section
/-! PROOFS of the family 10_state.md. First the facts that the proofs share: the bits of STATUS, what the ports show, what
a command does when it executes and one step as a case distinction with named cases. Then the obligations. -/

namespace Sys2Proof.Machine

variable {s t : State} {c : Command}

/-! ### STATUS and the output ports -/

/-- The bit order of R20, for any three bits. -/
theorem getElem_append_ofBool : ∀ b e v : Bool,
    (BitVec.ofBool b ++ BitVec.ofBool e ++ BitVec.ofBool v : BitVec 3)[0] = v ∧
    (BitVec.ofBool b ++ BitVec.ofBool e ++ BitVec.ofBool v : BitVec 3)[1] = e ∧
    (BitVec.ofBool b ++ BitVec.ofBool e ++ BitVec.ofBool v : BitVec 3)[2] = b := by
  decide

@[simp] theorem status_getElem_zero (s : State) : s.status[0] = s.valid :=
  (getElem_append_ofBool s.busy s.err s.valid).1

@[simp] theorem status_getElem_one (s : State) : s.status[1] = s.err :=
  (getElem_append_ofBool s.busy s.err s.valid).2.1

@[simp] theorem status_getElem_two (s : State) : s.status[2] = s.busy :=
  (getElem_append_ofBool s.busy s.err s.valid).2.2

/-- STATUS has no storage of its own (10_state.md R20): it is determined by the three bits, and determines them. -/
theorem status_eq_iff : s.status = t.status ↔ s.valid = t.valid ∧ s.err = t.err ∧ s.busy = t.busy := by
  constructor
  · intro h
    have bit (k : Nat) : s.status.getLsbD k = t.status.getLsbD k := by rw [h]
    exact ⟨by simpa using bit 0, by simpa using bit 1, by simpa using bit 2⟩
  · rintro ⟨hv, he, hb⟩
    simp only [State.status, hv, he, hb]

theorem status_eq_zero (hv : s.valid = false) (he : s.err = false) (hb : s.busy = false) : s.status = 0 :=
  status_eq_iff (t := State.reset) |>.mpr ⟨hv, he, hb⟩

@[simp] theorem outputs_rHi (s : State) : s.outputs.rHi = if s.valid then some s.rHi else none := rfl
@[simp] theorem outputs_rLo (s : State) : s.outputs.rLo = if s.valid then some s.rLo else none := rfl
@[simp] theorem outputs_valid (s : State) : s.outputs.valid = s.valid := rfl
@[simp] theorem outputs_err (s : State) : s.outputs.err = s.err := rfl
@[simp] theorem outputs_busy (s : State) : s.outputs.busy = s.busy := rfl

/-- A host read changes no port (20_memory.md R30). -/
@[simp] theorem copyOut_outputs (r : Reading) (s : State) : (copyOut r s).outputs = s.outputs := rfl

/-- The list of moves to come is not seen at the ports. -/
@[simp] theorem dropMove_outputs (s : State) : (dropMove s).outputs = s.outputs := rfl

/-! ### A command executes -/

/-- What is left of `s` when the command `c` has executed, in the fields that the spec gives a value: ERR accumulates, VALID
tells whether `c` is legal, and then the result registers hold its answer (10_state.md R15 to R19, 60_exceptions.md R64). -/
structure Executed (c : Command) (s t : State) : Prop where
  pend : t.pend = s.pend
  todo : t.todo = s.todo
  copies : t.copies = s.copies
  err : t.err = (s.err || c.isReserved)
  valid : t.valid = !c.isReserved
  result : c.op ≠ 0b11#2 → (answer (decode c)).onPorts = some (t.rHi, t.rLo)

theorem exec_decode_executed (c : Command) (s : State) :
    ∃ t, exec (decode c) s = .next t ∧ Executed c s t := by
  obtain ⟨hi, lo, hr, ha, he⟩ | ⟨hr, -, he⟩ := exec_cases (decode c) s
  · have hc : c.isReserved = false := isReserved_eq_false_iff.mpr (mt decode_eq_reserved_iff.mpr hr)
    exact ⟨_, he, rfl, rfl, rfl, by simp [hc], by simp [hc], fun _ => ha⟩
  · have hop : c.op = 0b11#2 := decode_eq_reserved_iff.mp hr
    have hc : c.isReserved = true := isReserved_eq_true_iff.mpr hop
    exact ⟨_, he, rfl, rfl, rfl, by simp [hc], by simp [hc], fun h => absurd hop h⟩

/-! ### One step -/

/-- All that a step which goes on can do, by named cases: `step_cases` with the block's turn split into rest, legal and
reserved completion, and the three reads taken together, since the block is the same after each. -/
inductive StepEffect (s : State) : State → Prop
  | issue (c : Command) (move : nextMove s = .issue c) (idle : s.pend = none) :
      StepEffect s (latch c (dropMove s))
  | read (r : Reading) (move : nextMove s = .readStatus ∨ nextMove s = .readHi ∨ nextMove s = .readLo) :
      StepEffect s (copyOut r (dropMove s))
  | rest (move : nextMove s = .block) (idle : s.pend = none) : StepEffect s (dropMove s)
  | complete (c : Command) (hi lo : Word) (move : nextMove s = .block) (pending : s.pend = some c)
      (legal : c.op ≠ 0b11#2) (result : (answer (decode c)).onPorts = some (hi, lo)) :
      StepEffect s (writeResult hi lo (release (dropMove s)))
  | raise (c : Command) (move : nextMove s = .block) (pending : s.pend = some c) (reserved : c.op = 0b11#2) :
      StepEffect s (raiseReservedOp (release (dropMove s)))
  | reset (move : nextMove s = .reset) : StepEffect s (takeReset (dropMove s))

theorem step_effect (h : step s = .next t) : StepEffect s t := by
  obtain ⟨c, hm, hp, rfl⟩ | ⟨hm, rfl⟩ | ⟨hm, -, rfl⟩ | ⟨hm, -, rfl⟩ | ⟨hm, hb⟩ | ⟨hm, rfl⟩ := step_cases h
  · exact .issue c hm hp
  · exact .read _ (.inl hm)
  · exact .read _ (.inr (.inl hm))
  · exact .read _ (.inr (.inr hm))
  · obtain ⟨hp, rfl⟩ | ⟨c, hi, lo, hp, hr, ha, rfl⟩ | ⟨c, hp, hr, rfl⟩ := blockTurn_cases hb
    · exact .rest hm hp
    · exact .complete c hi lo hm hp (mt decode_eq_reserved_iff.mpr hr) ha
    · exact .raise c hm hp (decode_eq_reserved_iff.mp hr)
  · exact .reset hm

/-! ### Issue and completion -/

/-- The two steps of the handshake, from an idle state: the command is latched, and then the block executes it (R80). -/
theorem runSteps_issue_block {rest : List Move} (hp : s.pend = none) (ht : s.todo = .issue c :: .block :: rest) :
    ∃ t, (∀ n, runSteps (n + 2) s = runSteps n t) ∧ Executed c { s with todo := rest } t := by
  have hissue : step s = .next (latch c { s with todo := .block :: rest }) := by
    rw [step_of_cons ht]; exact hostIssue_of_idle hp
  have hblock : step (latch c { s with todo := .block :: rest }) =
      exec (decode c) (release (latch c { s with todo := rest })) := by
    rw [step_of_cons (latch_todo c _)]; exact blockTurn_busy (s := latch c { s with todo := rest }) rfl
  obtain ⟨t, he, hpend, htodo, hcopies, herr, hvalid, hresult⟩ :=
    exec_decode_executed c (release (latch c { s with todo := rest }))
  refine ⟨t, fun n => ?_, hpend.trans hp.symm, htodo, hcopies, herr, hvalid, hresult⟩
  rw [runSteps_of_next hissue, runSteps_of_next (hblock.trans he)]

/-! ### The obligations -/

/-- Settles O36: by the cases of a step; VALID is 0 or nothing is pending after each, or both are as before. -/
theorem validOnlyWhileIdleIsKept : Obligations.ValidOnlyWhileIdleIsKept := by
  intro s t hs h
  cases step_effect h with
  | issue => exact nofun
  | read => exact hs
  | rest => exact hs
  | complete => exact fun _ => rfl
  | raise => exact nofun
  | reset => exact nofun

/-- Settles O37: VALID is 0 after reset. -/
theorem validOnlyWhileIdleAtReset : Obligations.ValidOnlyWhileIdleAtReset := fun _ => reset_pend

/-- Settles O30, from the bits of STATUS. -/
theorem statusIsAViewOfTheFlags : Obligations.StatusIsAViewOfTheFlags :=
  ⟨fun s => ⟨by simp, by simp, by simp, busy_eq_true_iff⟩,
    fun _ _ => status_eq_iff⟩

/-- Settles O38, by the cases of a step: all but the reserved command and reset keep ERR. -/
theorem errChangesOnlyByReservedOrReset : Obligations.ErrChangesOnlyByReservedOrReset := by
  intro s t h
  cases step_effect h with
  | issue | read | rest | complete => simp +contextual
  | raise c move pending reserved => exact ⟨fun _ _ => ⟨move, c, pending, reserved⟩, nofun⟩
  | reset move => exact ⟨nofun, fun _ _ => move⟩

/-- Settles O39, by the cases of a step: all but a legal completion keep VALID or clear it. -/
theorem validRisesOnlyWithTheResult : Obligations.ValidRisesOnlyWithTheResult := by
  intro s t h hs ht
  cases step_effect h with
  | issue | read | rest | raise | reset => simp [hs] at ht
  | complete c hi lo move pending legal result => exact ⟨move, c, pending, legal, result⟩

/-- Settles O40, by the cases of a step: after an issue, a reserved command and a reset VALID is 0, so the ports show no
value; a read and a rest keep the registers and the ports. -/
theorem resultsChangeOnlyByCompletionResetOrIssue : Obligations.ResultsChangeOnlyByCompletionResetOrIssue := by
  intro s t h
  cases step_effect h with
  | issue c move => simp [move]
  | read r move => obtain hm | hm | hm := move <;> simp [hm]
  | rest move => simp [move]
  | complete c hi lo move pending legal => simp [move, pending, legal]
  | raise c move pending => simp [move, pending]
  | reset move => simp [move]

/-- Settles O41, by the cases of a step: no issue and no rest while `c` is pending, and only the reads keep it. -/
theorem pendingCommandIsStable : Obligations.PendingCommandIsStable := by
  intro s t c hc h
  cases step_effect h with
  | issue _ _ idle => simp [hc] at idle
  | read r move => obtain hm | hm | hm := move <;> simp [hm, hc]
  | rest _ idle => simp [hc] at idle
  | complete _ _ _ move => exact .inr ⟨rfl, .inl move⟩
  | raise _ move => exact .inr ⟨rfl, .inl move⟩
  | reset move => exact .inr ⟨rfl, .inr move⟩

/-- Settles O44, by induction on the commands before the last; each takes the two steps of its handshake. -/
theorem runOfCommandsEndsWithLastResult : Obligations.RunOfCommandsEndsWithLastResult := by
  intro cs c rest
  induction cs with
  | nil =>
    intro s hp ht
    obtain ⟨t, hrun, hx⟩ := runSteps_issue_block hp ht
    exact ⟨t, (hrun 0).trans runSteps_zero, hx.pend.trans hp, hx.todo, hx.copies, by simpa using hx.err,
      hx.valid, hx.result⟩
  | cons d ds ih =>
    intro s hp ht
    obtain ⟨u, hrun, hx⟩ := runSteps_issue_block hp ht
    obtain ⟨t, hrest, hpend, htodo, hcopies, herr, hvalid, hresult⟩ := ih u (hx.pend.trans hp) hx.todo
    refine ⟨t, (hrun _).trans hrest, hpend, htodo, hcopies.trans hx.copies, ?_, hvalid, hresult⟩
    simp [herr, hx.err, Bool.or_assoc]

/-- Settles O51, from what the ports show while VALID = 1 and while VALID = 0; a pending command means VALID = 0 by the
invariant. -/
theorem outputPortsShowResultsOnlyWhileValid : Obligations.OutputPortsShowResultsOnlyWhileValid := by
  refine ⟨fun s => ⟨by simp, by simp, by simp, fun h => ?_, fun h => ?_⟩, fun s c hc hs => ?_⟩
  · simp [h]
  · refine ⟨by simp [h], by simp [h], fun hi lo => ?_⟩
    exact (outputs_of_invalid (s := { s with rHi := hi, rLo := lo }) h).trans (outputs_of_invalid h).symm
  · have hv : s.valid = false := Bool.eq_false_iff.mpr fun h => by simp [hs h] at hc
    rw [outputs_of_invalid hv, busy_eq_true_iff.mpr ⟨c, hc⟩]

/-- Settles O27: a legal instruction writes its answer, which is a function of the instruction alone. -/
theorem resultsDependOnOperandsOnly : Obligations.ResultsDependOnOperandsOnly := by
  intro i s1 s2 hi
  obtain ⟨hi1, lo1, -, ha1, he1⟩ | ⟨hr, -⟩ := exec_cases i s1
  · obtain ⟨hi2, lo2, -, ha2, he2⟩ | ⟨hr, -⟩ := exec_cases i s2
    · obtain ⟨hhi, hlo⟩ : hi1 = hi2 ∧ lo1 = lo2 := by simpa [ha1] using ha2
      exact ⟨_, _, he1, he2, hhi, hlo, rfl, rfl⟩
    · exact absurd hr hi
  · exact absurd hr hi

/-- Settles O28: a listed reset is `takeReset`, and the reset state has the same flags. -/
theorem resetClearsFlagsAndBusy : Obligations.ResetClearsFlagsAndBusy :=
  ⟨reset_valid, reset_err, rfl, status_eq_zero rfl rfl rfl, fun s rest h =>
    ⟨takeReset { s with todo := rest }, step_of_cons h, rfl, rfl, rfl, status_eq_zero rfl rfl rfl, rfl⟩⟩

end Sys2Proof.Machine
end

section
/-! PROOFS of the family 20_memory.md. First the facts that the proofs share: two states left by one command from one state
agree wherever the spec gives a value, and the step that a listed read is. Then the obligations. -/

namespace Sys2Proof.Machine

variable {s t u : State} {c : Command} {rest : List Move}

/-! ### A command executes: how far the state it leaves is determined -/

/-- Only the result registers and the count of free values are left open. -/
theorem Executed.eq_but_results (ht : Executed c s t) (hu : Executed c s u) :
    t = { u with rHi := t.rHi, rLo := t.rLo, draws := t.draws } := by
  have hpend := ht.pend.trans hu.pend.symm
  have htodo := ht.todo.trans hu.todo.symm
  have hcopies := ht.copies.trans hu.copies.symm
  have herr := ht.err.trans hu.err.symm
  have hvalid := ht.valid.trans hu.valid.symm
  cases t; cases u; simp_all

/-- A legal command leaves the same result registers (30_encoding.md R44: its answer is a function of the command). -/
theorem Executed.results_eq (ht : Executed c s t) (hu : Executed c s u) (hc : c.op ≠ 0b11#2) :
    t.rHi = u.rHi ∧ t.rLo = u.rLo := by
  simpa using (ht.result hc).symm.trans (hu.result hc)

/-- After a legal command the result registers are determined too. -/
theorem Executed.eq_but_draws (ht : Executed c s t) (hu : Executed c s u) (hc : c.op ≠ 0b11#2) :
    t = { u with draws := t.draws } := by
  obtain ⟨hhi, hlo⟩ := ht.results_eq hu hc
  simpa only [hhi, hlo] using ht.eq_but_results hu

/-- All output ports are determined: after a reserved command VALID is 0 and the result ports show no value (R82). -/
theorem Executed.outputs_eq (ht : Executed c s t) (hu : Executed c s u) : t.outputs = u.outputs := by
  by_cases hc : c.op = 0b11#2
  · have hr : c.isReserved = true := isReserved_eq_true_iff.mpr hc
    have htv : t.valid = false := by simp [ht.valid, hr]
    have huv : u.valid = false := by simp [hu.valid, hr]
    rw [outputs_of_invalid htv, outputs_of_invalid huv, ht.err, hu.err, State.busy, State.busy, ht.pend, hu.pend]
  · rw [ht.eq_but_draws hu hc]; rfl

/-! ### A listed read -/

theorem step_readStatus (h : s.todo = .readStatus :: rest) :
    step s = .next (copyOut (.status s.status) { s with todo := rest }) :=
  step_of_cons h

theorem step_readHi (hv : s.valid = true) (h : s.todo = .readHi :: rest) :
    step s = .next (copyOut (.hi s.rHi) { s with todo := rest }) :=
  (step_of_cons h).trans (hostReadHi_of_valid (s := { s with todo := rest }) hv)

theorem step_readLo (hv : s.valid = true) (h : s.todo = .readLo :: rest) :
    step s = .next (copyOut (.lo s.rLo) { s with todo := rest }) :=
  (step_of_cons h).trans (hostReadLo_of_valid (s := { s with todo := rest }) hv)

/-! ### The obligations -/

/-- Settles O42: the two steps of the handshake and the fused step both execute `c` from the same fields, and a state so
reached is determined wherever the spec gives a value. -/
theorem handshakeRefinesAtomicStep : Obligations.HandshakeRefinesAtomicStep := by
  intro s c rest hp hs
  obtain ⟨t, hrun, ht⟩ := runSteps_issue_block hp hs
  obtain ⟨u, hexec, hu⟩ := exec_decode_executed c { s with todo := rest }
  exact ⟨t, u, (hrun 0).trans runSteps_zero, hexec, ht.eq_but_results hu, ht.outputs_eq hu, ht.eq_but_draws hu⟩

/-- Settles O31: whether the list is empty or begins with it, the move is the block's turn, on a pending command or on
none. -/
theorem stepExecutesPendingCommand : Obligations.StepExecutesPendingCommand := by
  intro s rest
  refine ⟨fun c hp h => ?_, fun c hp h => ?_, fun hp h => ?_, fun hp h => ?_⟩
  · exact (step_of_nil h).trans (blockTurn_busy hp)
  · exact (step_of_cons h).trans (blockTurn_busy (s := { s with todo := rest }) hp)
  · exact (step_of_nil h).trans (blockTurn_idle hp)
  · exact (step_of_cons h).trans (blockTurn_idle (s := { s with todo := rest }) hp)

/-- Settles O34: one read is one step, and the first of two reads of `R_LO` leaves VALID and `R_LO` as they were for the
second. -/
theorem readsHaveNoSideEffect : Obligations.ReadsHaveNoSideEffect := by
  intro s rest
  refine ⟨step_readStatus, step_readHi, step_readLo, fun hv h => ?_⟩
  have hfirst : step s = .next (copyOut (.lo s.rLo) { s with todo := .readLo :: rest }) := step_readLo hv h
  have hsecond : step (copyOut (.lo s.rLo) { s with todo := .readLo :: rest }) =
      .next (copyOut (.lo s.rLo) (copyOut (.lo s.rLo) { s with todo := rest })) := step_readLo hv rfl
  rw [runSteps_of_next hfirst, runSteps_one, hsecond]
  simp [copyOut]

end Sys2Proof.Machine
end

section
/-! PROOFS of the family 30_encoding.md. First the facts that the proofs share: the packed form as a number and as a
concatenation, the encoder against the decoder, the operands and line forms of the assembler, what an instruction writes, and
one line of a listing. Then the obligations. -/

namespace Sys2Proof

variable {c : Command} {w : CmdWord}

/-! ### The packed form (R37) -/

/-- In a concatenation the left part counts multiples of the right part's range. -/
theorem append_toNat {m n : Nat} (x : BitVec m) (y : BitVec n) : (x ++ y).toNat = x.toNat * 2 ^ n + y.toNat := by
  rw [BitVec.toNat_append, ← Nat.shiftLeft_add_eq_or_of_lt y.isLt, Nat.shiftLeft_eq]

theorem pack_toNat (c : Command) :
    c.pack.toNat = ((c.op.toNat * 2 ^ 8 + c.dist.toNat) * 2 ^ 64 + c.b.toNat) * 2 ^ 64 + c.a.toNat := by
  simp only [Command.pack, append_toNat]

/-- Two packed commands agree as soon as their four fields agree as numbers. -/
theorem Command.ext_toNat {c c' : Command} (hop : c.op.toNat = c'.op.toNat) (hdist : c.dist.toNat = c'.dist.toNat)
    (hb : c.b.toNat = c'.b.toNat) (ha : c.a.toNat = c'.a.toNat) : c = c' := by
  cases c; cases c'
  simp_all [BitVec.toNat_inj]

@[simp] theorem unpack_pack (c : Command) : Command.unpack c.pack = c := by
  have := c.op.isLt; have := c.dist.isLt; have := c.b.isLt; have := c.a.isLt
  apply Command.ext_toNat <;>
    simp only [Command.unpack, BitVec.extractLsb'_toNat, Nat.shiftRight_eq_div_pow, pack_toNat] <;> omega

@[simp] theorem pack_unpack (w : CmdWord) : (Command.unpack w).pack = w := by
  have := w.isLt
  apply BitVec.eq_of_toNat_eq
  simp only [pack_toNat, Command.unpack, BitVec.extractLsb'_toNat, Nat.shiftRight_eq_div_pow]
  omega

/-- A mask of a packed command is a mask of each field. -/
theorem pack_and_pack (c c' : Command) :
    c.pack &&& c'.pack = Command.pack ⟨c.op &&& c'.op, c.dist &&& c'.dist, c.b &&& c'.b, c.a &&& c'.a⟩ := by
  change (c.op ++ c.dist ++ c.b ++ c.a) &&& (c'.op ++ c'.dist ++ c'.b ++ c'.a) = _
  rw [BitVec.and_append, BitVec.and_append, BitVec.and_append]
  rfl

/-- Clearing bits 135:128 of a packed command is clearing its distance. -/
theorem pack_clear_dist (c : Command) : { c with dist := 0 }.pack = c.pack &&& ~~~(0xFF#138 <<< 128) := by
  have hmask : ~~~(0xFF#138 <<< 128) = Command.pack ⟨BitVec.allOnes 2, 0, BitVec.allOnes 64, BitVec.allOnes 64⟩ := by
    decide
  rw [hmask, pack_and_pack]
  simp only [BitVec.and_allOnes, BitVec.ofNat_eq_ofNat, BitVec.and_zero]

/-! ### The decoder against the encoder (R45, R47) -/

@[simp] theorem decodeWord_pack (c : Command) : decodeWord c.pack = decode c := by
  rw [decodeWord, unpack_pack]

theorem decode_encode (i : Instr) : decode (encode i) = i := by
  cases i with
  | mul64 x y => exact decode_of_op_mul64 rfl
  | shr128 hi lo dist => exact decode_of_op_shr128 rfl
  | mod1e9 hi lo => exact decode_of_op_mod1e9 rfl
  | reserved => exact decode_of_op_reserved rfl

theorem decodeWord_encodeWord (i : Instr) : decodeWord (encodeWord i) = i :=
  (decodeWord_pack _).trans (decode_encode i)

/-- Encoding what was decoded clears the ignored fields and keeps all others. -/
theorem encode_decode (c : Command) : encode (decode c) = c.canonical := by
  obtain ⟨op, dist, b, a⟩ := c
  obtain rfl | rfl | rfl | rfl := opSel_cases op <;> rfl

theorem encodeWord_decodeWord (w : CmdWord) : encodeWord (decodeWord w) = (Command.unpack w).canonical.pack :=
  congrArg Command.pack (encode_decode _)

theorem canonical_of_op_mul64 (h : c.op = 0b00#2) : c.canonical = { c with dist := 0 } := by
  simp [Command.canonical, h, opMul64]

theorem canonical_of_op_shr128 (h : c.op = 0b01#2) : c.canonical = c := by
  simp [Command.canonical, h, opMul64, opShr128]

theorem canonical_of_op_mod1e9 (h : c.op = 0b10#2) : c.canonical = { c with dist := 0 } := by
  simp [Command.canonical, h, opMul64, opShr128, opMod1e9]

theorem canonical_of_op_reserved (h : c.op = 0b11#2) : c.canonical = ⟨0b11#2, 0, 0, 0⟩ := by
  simp [Command.canonical, h, opMul64, opShr128, opMod1e9]

/-! ### The decoder on numerals (log entry 11) -/

theorem commandOfNumeral_toNat (w : CmdWord) : commandOfNumeral w.toNat = .ok (Command.unpack w) := by
  simp [commandOfNumeral, w.isLt]

theorem decodeNumeral_toNat (w : CmdWord) : decodeNumeral w.toNat = .ok (decodeWord w) := by
  rw [decodeNumeral, commandOfNumeral_toNat]; rfl

theorem decodeNumeral_of_ge {n : Nat} (h : 2 ^ 138 ≤ n) : decodeNumeral n = .error .bitsAboveCommand := by
  rw [decodeNumeral, commandOfNumeral, if_neg (Nat.not_lt.mpr h)]

theorem commandOfTableWord_toNat (w : CmdWord) : commandOfTableWord 138 w.toNat = some (Command.unpack w) := by
  rw [commandOfTableWord, Nat.mod_eq_of_lt w.isLt, commandOfNumeral_toNat]

theorem decodeTableWord_toNat (w : CmdWord) : decodeTableWord 138 w.toNat = some (decodeWord w) := by
  rw [decodeTableWord, Nat.mod_eq_of_lt w.isLt, decodeNumeral_toNat]

theorem decodeTableWord_encodeWord (i : Instr) : decodeTableWord 138 (encodeWord i).toNat = some i := by
  rw [decodeTableWord_toNat, decodeWord_encodeWord]

/-! ### Operands of the assembler (R45, R46) -/

section Operands

variable {names : Names} {n : Nat}

theorem word_numeral_of_lt (h : n < 2 ^ 64) : (Operand.numeral n).word names = .ok (BitVec.ofNat 64 n) :=
  if_pos h

theorem word_numeral_of_ge (h : 2 ^ 64 ≤ n) : (Operand.numeral n).word names = .error .operandOutOfRange :=
  if_neg (Nat.not_lt.mpr h)

theorem dist_numeral_of_lt (h : n < 256) : (Operand.numeral n).dist names = .ok (BitVec.ofNat 8 n) :=
  if_pos h

theorem dist_numeral_of_ge (h : 256 ≤ n) : (Operand.numeral n).dist names = .error .distanceOutOfRange :=
  if_neg (Nat.not_lt.mpr h)

@[simp] theorem word_numeral_toNat (x : Word) : (Operand.numeral x.toNat).word names = .ok x := by
  rw [word_numeral_of_lt x.isLt, BitVec.ofNat_toNat, BitVec.setWidth_eq]

@[simp] theorem dist_numeral_toNat (d : Dist) : (Operand.numeral d.toNat).dist names = .ok d := by
  rw [dist_numeral_of_lt d.isLt, BitVec.ofNat_toNat, BitVec.setWidth_eq]

/-- A 64-bit numeral is taken or refused by its range alone. -/
theorem word_numeral_cases (names : Names) (n : Nat) :
    (Operand.numeral n).word names = .ok (BitVec.ofNat 64 n) ∨
      (Operand.numeral n).word names = .error .operandOutOfRange :=
  (Nat.lt_or_ge n (2 ^ 64)).imp word_numeral_of_lt word_numeral_of_ge

theorem value_name {id : String} {v : Word} (h : names.lookup id = some v) :
    (Operand.name id).value names = .ok v.toNat := by
  simp only [Operand.value, h]

/-- Every 64-bit word is in range, so a bound name is always a 64-bit operand. -/
theorem word_name {id : String} {v : Word} (h : names.lookup id = some v) :
    (Operand.name id).word names = .ok v := by
  simp [Operand.word, value_name h, v.isLt]

theorem exists_lookup_of_contains {id : String} (h : (names.map Prod.fst).contains id = true) :
    ∃ v, names.lookup id = some v := by
  rw [← Option.isSome_iff_exists, List.lookup_isSome_iff]
  simpa using h

/-- The static check of a 64-bit operand is sound. -/
theorem exists_word_of_wellFormed {o : Operand} (h : o.wellFormed (2 ^ 64) (names.map Prod.fst) = true) :
    ∃ v, o.word names = .ok v := by
  cases o with
  | numeral n => exact ⟨_, word_numeral_of_lt (of_decide_eq_true h)⟩
  | name id =>
    obtain ⟨v, hv⟩ := exists_lookup_of_contains h
    exact ⟨v, word_name hv⟩

/-- After the static check of a distance only the value of a name can still be out of range (log entry 15). -/
theorem dist_cases_of_wellFormed {o : Operand} (h : o.wellFormed 256 (names.map Prod.fst) = true) :
    (∃ d, o.dist names = .ok d) ∨
      (o.dist names = .error .distanceOutOfRange ∧
        ∃ id v, o = .name id ∧ names.lookup id = some v ∧ 256 ≤ v.toNat) := by
  cases o with
  | numeral n => exact .inl ⟨_, dist_numeral_of_lt (of_decide_eq_true h)⟩
  | name id =>
    obtain ⟨v, hv⟩ := exists_lookup_of_contains h
    obtain hlt | hge := Nat.lt_or_ge v.toNat 256
    · exact .inl ⟨_, by rw [Operand.dist, value_name hv]; exact if_pos hlt⟩
    · exact .inr ⟨by rw [Operand.dist, value_name hv]; exact if_neg (Nat.not_lt.mpr hge), id, v, rfl, hv, hge⟩

/-! ### The three legal line forms, operand by operand -/

variable {x y hi lo d : Operand} {x' y' hi' lo' : Word} {d' : Dist}

theorem assemble_mul64 (hx : x.word names = .ok x') (hy : y.word names = .ok y') :
    assemble names (.mul64 x y) = .ok (encode (.mul64 x' y')) := by
  simp only [assemble, assembleInstr, hx, hy]

theorem assemble_shr128 (hhi : hi.word names = .ok hi') (hlo : lo.word names = .ok lo') (hd : d.dist names = .ok d') :
    assemble names (.shr128 hi lo d) = .ok (encode (.shr128 hi' lo' d')) := by
  simp only [assemble, assembleInstr, hhi, hlo, hd]

/-- Where both halves are words a refused distance refuses the line. -/
theorem assemble_shr128_of_dist_error {e : AsmRefusal} (hhi : hi.word names = .ok hi') (hlo : lo.word names = .ok lo')
    (hd : d.dist names = .error e) : assemble names (.shr128 hi lo d) = .error e := by
  simp only [assemble, assembleInstr, hhi, hlo, hd]

theorem assemble_mod1e9 (hhi : hi.word names = .ok hi') (hlo : lo.word names = .ok lo') :
    assemble names (.mod1e9 hi lo) = .ok (encode (.mod1e9 hi' lo')) := by
  simp only [assemble, assembleInstr, hhi, hlo]

end Operands

end Sys2Proof

namespace Sys2Proof.Machine

variable {s : State} {i : Instr} {hi lo : Word}

/-! ### What an instruction writes -/

/-- An instruction with an answer writes it and nothing else. -/
theorem exec_of_answer (h : (answer i).onPorts = some (hi, lo)) : exec i s = .next (writeResult hi lo s) := by
  obtain ⟨hi', lo', -, ha, he⟩ | ⟨-, ha, -⟩ := exec_cases i s
  · obtain ⟨rfl, rfl⟩ : hi' = hi ∧ lo' = lo := by simpa [ha] using h
    exact he
  · simp [ha] at h

/-- `d[5:0]` is the distance modulo 64 (41_shr128.md R53). -/
theorem toNat_extractLsb'_eq_effectiveDist (d : Dist) : (d.extractLsb' 0 6).toNat = effectiveDist d := by
  simp [effectiveDist, Config.distMod]

/-- SHR128 reads its distance modulo 64 only. -/
theorem exec_shr128_congr {d d' : Dist} (h : effectiveDist d = effectiveDist d') (s : State) :
    exec (.shr128 hi lo d) s = exec (.shr128 hi lo d') s := by
  simp only [exec, execShr128, shifted, h]

theorem exec_shr128_congr_low_bits {d d' : Dist} (h : d.extractLsb' 0 6 = d'.extractLsb' 0 6) (s : State) :
    exec (.shr128 hi lo d) s = exec (.shr128 hi lo d') s := by
  apply exec_shr128_congr
  rw [← toNat_extractLsb'_eq_effectiveDist, h, toNat_extractLsb'_eq_effectiveDist]

/-- A remainder modulo 10^9 fits in the low half. -/
theorem lowHalf_remainder_toNat (hi lo : Word) : (lowHalf (remainder hi lo)).toNat = wide hi lo % 10 ^ 9 := by
  rw [lowHalf_toNat]
  exact Nat.mod_eq_of_lt ((remainder_lt hi lo).trans (by decide))

/-- Shifting the two halves of a product is shifting the product (41_shr128.md R55 (4)). -/
theorem shifted_product (x y : Word) (d : Dist) :
    shifted (highHalf (product x y)) (lowHalf (product x y)) d = product x y / 2 ^ effectiveDist d := by
  rw [shifted, wide_halves (product_lt x y)]

theorem lowHalf_eq_ofNat (v : Nat) : lowHalf v = BitVec.ofNat 64 v := by
  apply BitVec.eq_of_toNat_eq
  simp [lowHalf_toNat]

/-! ### One line of a listing (R46) -/

theorem bindResults_one {names : Names} {n : String} (h : s.valid = true) :
    bindResults [n] names s = some ((n, s.rLo) :: names) := by
  simp [bindResults, readResults, h]

theorem bindResults_two {names : Names} {m n : String} (h : s.valid = true) :
    bindResults [m, n] names s = some ((m, s.rHi) :: (n, s.rLo) :: names) := by
  simp [bindResults, readResults, h]

/-- A line with an answer is issued to the idle block, completes, and its arrow binds the answer; ERR stays, and the block
is idle again. -/
theorem runLine_of_answer {l : Line} {names : Names} (hb : l.bindsWellFormed = true)
    (hl : assemble names l.cmd = .ok (encode i)) (ha : (answer i).onPorts = some (hi, lo)) (hp : s.pend = none) :
    ∃ u, u.pend = none ∧ u.err = s.err ∧
      runLine l names s = (bindResults l.binds names (writeResult hi lo u)).map (·, writeResult hi lo u) := by
  refine ⟨release (latch (encode i) s), rfl, rfl, ?_⟩
  have hturn : blockTurn (latch (encode i) s) = .next (writeResult hi lo (release (latch (encode i) s))) := by
    rw [blockTurn_busy (latch_pend _ s), decode_encode, exec_of_answer ha]
  simp only [runLine, hb, hl, hostIssue_of_idle hp, hturn, if_true]
  cases bindResults l.binds names (writeResult hi lo (release (latch (encode i) s))) <;> rfl

/-- `MUL64 x, y -> h, l` binds the two halves of the product. -/
theorem runLine_mul64 {names : Names} {ox oy : Operand} {x y : Word} {h l : String}
    (hx : ox.word names = .ok x) (hy : oy.word names = .ok y) (hp : s.pend = none) :
    ∃ t, runLine ⟨.mul64 ox oy, [h, l]⟩ names s =
        some ((h, highHalf (product x y)) :: (l, lowHalf (product x y)) :: names, t) ∧
      t.pend = none ∧ t.err = s.err := by
  obtain ⟨u, hu, herr, hrun⟩ :=
    runLine_of_answer (l := ⟨.mul64 ox oy, [h, l]⟩) rfl (assemble_mul64 hx hy) rfl hp
  rw [bindResults_two (writeResult_valid ..)] at hrun
  exact ⟨_, hrun, hu, herr⟩

/-- `SHR128 hi, lo, d -> n` binds the low word of the shifted value. -/
theorem runLine_shr128 {names : Names} {ohi olo od : Operand} {hi lo : Word} {d : Dist} {n : String}
    (hhi : ohi.word names = .ok hi) (hlo : olo.word names = .ok lo) (hd : od.dist names = .ok d) (hp : s.pend = none) :
    ∃ t, runLine ⟨.shr128 ohi olo od, [n]⟩ names s = some ((n, lowHalf (shifted hi lo d)) :: names, t) ∧
      t.rHi = 0 ∧ t.valid = true ∧ t.err = s.err := by
  obtain ⟨u, -, herr, hrun⟩ :=
    runLine_of_answer (l := ⟨.shr128 ohi olo od, [n]⟩) rfl (assemble_shr128 hhi hlo hd) rfl hp
  rw [bindResults_one (writeResult_valid ..)] at hrun
  exact ⟨_, hrun, rfl, rfl, herr⟩

/-! ### The obligations -/

/-- Settles O3: packing loses nothing, and the decoder reads from the canonical fields what the encoder wrote there. -/
theorem decodeOfEncodeIsIdentity : Obligations.DecodeOfEncodeIsIdentity := fun i =>
  ⟨decodeWord_encodeWord i, by rw [decodeNumeral_toNat, decodeWord_encodeWord], decodeTableWord_encodeWord i⟩

/-- Settles O1: the fields are those of the unpacked form, and their places in the numeral follow from its value. -/
theorem packedFormLayout : Obligations.PackedFormLayout := by
  refine ⟨fun c => ?_, pack_unpack⟩
  have hfields := unpack_pack c
  have hop := c.op.isLt; have hdist := c.dist.isLt; have hb := c.b.isLt; have ha := c.a.isLt
  refine ⟨congrArg Command.op hfields, congrArg Command.dist hfields, congrArg Command.b hfields,
    congrArg Command.a hfields, ?_, ?_, ?_, ?_, ?_, hfields⟩ <;> rw [pack_toNat] <;> omega

/-- Settles O2, by the four values of op; the two words that decode alike are MUL64 0, 0 with distances 0 and 1. -/
theorem decodeByOpForgetsIgnored : Obligations.DecodeByOpForgetsIgnored := by
  refine ⟨fun w => ?_, ⟨0, 1#138 <<< 128, by decide, by decide⟩, fun c c' hop => ?_,
    fun _ _ _ _ _ => ⟨rfl, rfl, rfl, rfl⟩⟩
  · exact ⟨decode_of_op_mul64 (c := .unpack w), decode_of_op_shr128 (c := .unpack w),
      decode_of_op_mod1e9 (c := .unpack w), decode_of_op_reserved (c := .unpack w)⟩
  · refine ⟨fun h ha hb => ?_, fun h ha hb hd s => ?_, fun h ha hb => ?_, fun h => ?_⟩
    · rw [decode_of_op_mul64 h, decode_of_op_mul64 (hop ▸ h), ha, hb]
    · rw [decode_of_op_shr128 h, decode_of_op_shr128 (hop ▸ h), ha, hb, exec_shr128_congr_low_bits hd]
    · rw [decode_of_op_mod1e9 h, decode_of_op_mod1e9 (hop ▸ h), ha, hb]
    · rw [decode_of_op_reserved h, decode_of_op_reserved (hop ▸ h)]

/-- Settles O4: encoding what was decoded packs the canonical form of the command, which is read off for each op. -/
theorem encodeOfDecodeClearsIgnored : Obligations.EncodeOfDecodeClearsIgnored := by
  intro w
  rw [encodeWord_decodeWord]
  refine ⟨fun h => ?_, fun h => ?_, fun h => ?_⟩
  · have hc : (Command.unpack w).canonical = { Command.unpack w with dist := 0 } :=
      h.elim (canonical_of_op_mul64 (c := .unpack w)) (canonical_of_op_mod1e9 (c := .unpack w))
    rw [hc, pack_clear_dist, pack_unpack]
  · rw [canonical_of_op_shr128 h, pack_unpack]
  · rw [canonical_of_op_reserved h]; decide

/-- Settles O7: the decoder drops the ignored fields, and SHR128 reads its distance modulo 64. -/
theorem ignoredFieldsChangeNothing : Obligations.IgnoredFieldsChangeNothing := by
  intro x y d d' s
  refine ⟨⟨_, rfl, wide_halves (product_lt x y), rfl, rfl⟩, ⟨_, rfl, ?_, fun hd => ?_, rfl⟩,
    ⟨_, rfl, lowHalf_remainder_toNat y x, rfl, rfl⟩, fun _ _ => ⟨rfl, _, rfl, rfl, rfl⟩⟩
  · rw [toNat_extractLsb'_eq_effectiveDist]
    exact lowHalf_toNat _
  · exact exec_shr128_congr_low_bits hd.symm s

/-- Settles O8: what any command leaves in ERR and VALID depends on op = 11 alone. -/
theorem onlyOpElevenIsIllegal : Obligations.OnlyOpElevenIsIllegal := by
  refine ⟨fun w s => ?_, fun b a d s => ⟨fun _ => ?_, rfl, rfl⟩⟩
  · obtain ⟨t, he, hx⟩ := exec_decode_executed (.unpack w) s
    refine ⟨fun h => ⟨t, he, ?_⟩, fun h => ⟨t, he, ?_⟩⟩
    · have hr : (Command.unpack w).isReserved = true := isReserved_eq_true_iff.mpr h
      simp [hx.err, hx.valid, hr]
    · have hr : (Command.unpack w).isReserved = false := isReserved_eq_false_iff.mpr h
      simp [hx.err, hx.valid, hr]
  · refine exec_shr128_congr ?_ s
    simp only [effectiveDist, Config.distMod, BitVec.toNat_ofNat]
    omega

/-- Settles O47: a line's operands are taken or refused one by one, from the left; where the second is out of range the
first may be too. -/
theorem assemblerChecksRanges : Obligations.AssemblerChecksRanges := by
  intro names m n d
  refine ⟨fun hm hn => ?_, fun h => ?_, rfl⟩
  · have hm' := word_numeral_of_lt (names := names) hm
    have hn' := word_numeral_of_lt (names := names) hn
    exact ⟨assemble_mul64 hm' hn', assemble_mod1e9 hm' hn',
      fun hd => assemble_shr128 hm' hn' (dist_numeral_of_lt hd),
      fun hd => assemble_shr128_of_dist_error hm' hn' (dist_numeral_of_ge hd)⟩
  · obtain hm | hn := h
    · simp only [assemble, assembleInstr, word_numeral_of_ge hm, and_self]
    · obtain hm | hm := word_numeral_cases names m <;>
        simp only [assemble, assembleInstr, hm, word_numeral_of_ge hn, and_self]

/-- Settles O48, by the line forms: checked 64-bit operands are words, and a checked distance is one or is a name bound to
256 or more. -/
theorem wellFormedLinesAssemble : Obligations.WellFormedLinesAssemble := by
  intro names l h
  cases l with
  | mul64 x y =>
    obtain ⟨hx, hy⟩ := Bool.and_eq_true_iff.mp h
    obtain ⟨_, hx'⟩ := exists_word_of_wellFormed hx
    obtain ⟨_, hy'⟩ := exists_word_of_wellFormed hy
    exact .inl ⟨_, assemble_mul64 hx' hy'⟩
  | shr128 hi lo d =>
    obtain ⟨hhilo, hd⟩ := Bool.and_eq_true_iff.mp h
    obtain ⟨hhi, hlo⟩ := Bool.and_eq_true_iff.mp hhilo
    obtain ⟨_, hhi'⟩ := exists_word_of_wellFormed hhi
    obtain ⟨_, hlo'⟩ := exists_word_of_wellFormed hlo
    obtain ⟨_, hd'⟩ | ⟨hd', id, v, rfl, hv⟩ := dist_cases_of_wellFormed hd
    · exact .inl ⟨_, assemble_shr128 hhi' hlo' hd'⟩
    · exact .inr ⟨assemble_shr128_of_dist_error hhi' hlo' hd', hi, lo, id, v, rfl, hv⟩
  | mod1e9 hi lo =>
    obtain ⟨hhi, hlo⟩ := Bool.and_eq_true_iff.mp h
    obtain ⟨_, hhi'⟩ := exists_word_of_wellFormed hhi
    obtain ⟨_, hlo'⟩ := exists_word_of_wellFormed hlo
    exact .inl ⟨_, assemble_mod1e9 hhi' hlo'⟩
  | reserved => exact .inl ⟨_, rfl⟩

/-- Settles O49: the first line binds the two halves of the product, and the second shifts what they make together. -/
theorem multiplyAndShiftListing : Obligations.MultiplyAndShiftListing := by
  intro x y d s hp
  obtain ⟨t, hfirst, hidle, herr⟩ :=
    runLine_mul64 (names := []) (h := "H") (l := "L") (word_numeral_toNat x) (word_numeral_toNat y) hp
  have hH := word_name (names := [("H", highHalf (product x y)), ("L", lowHalf (product x y))]) (id := "H") rfl
  have hL := word_name (names := [("H", highHalf (product x y)), ("L", lowHalf (product x y))]) (id := "L") rfl
  obtain ⟨u, hsecond, hhi, hvalid, herr'⟩ := runLine_shr128 (n := "S") hH hL (dist_numeral_toNat d) hidle
  refine ⟨_, u, by simp only [runListing, hfirst, hsecond]; rfl, ?_, hhi, hvalid, herr'.trans herr⟩
  rw [List.lookup_cons_self, shifted_product, lowHalf_eq_ofNat]
  rfl

/-- Settles O5: the first three words are canonical encodings; the reserved word has every field set. -/
theorem specWordsDecode : Obligations.SpecWordsDecode :=
  ⟨decodeTableWord_encodeWord (.mul64 0x123456789ABCDEF0 0x0FEDCBA987654321),
    decodeTableWord_encodeWord (.shr128 0x0123456789ABCDEF 0xFEDCBA9876543210 63),
    decodeTableWord_encodeWord (.mod1e9 0x000000018EE90FF6 0xC373E0EE4E3F0AD2),
    decodeTableWord_toNat (BitVec.allOnes 138)⟩

/-- Settles O6: a numeral below 2^138 is that of its 138-bit vector. -/
theorem numeralDecodesIffInCommandWidth : Obligations.NumeralDecodesIffInCommandWidth := by
  refine fun n => ⟨fun h => ?_, decodeNumeral_of_ge⟩
  have hn : (BitVec.ofNat 138 n).toNat = n := by rw [BitVec.toNat_ofNat, Nat.mod_eq_of_lt h]
  rw [← decodeNumeral_toNat, hn]

/-- Settles O24: `raiseReservedOp` sets ERR and clears VALID, so that the ports show no result. -/
theorem reservedRaisesReservedOp : Obligations.ReservedRaisesReservedOp :=
  ⟨fun _ => decode_of_op_reserved, fun s =>
    ⟨raiseReservedOp s, rfl, rfl, outputs_of_invalid (raiseReservedOp_valid s)⟩⟩

/-- Settles O26: a legal instruction writes its answer, which the ports then show. -/
theorem legalInstructionsNeverStop : Obligations.LegalInstructionsNeverStop := by
  intro i s hi
  obtain ⟨h, l, -, ha, he⟩ | ⟨hr, -⟩ := exec_cases i s
  · exact ⟨_, h, l, ha, he, rfl, outputs_of_valid (writeResult_valid h l s)⟩
  · exact absurd hr hi

/-- Settles O32: the placed command is pending and it is the block's turn, so the step executes it with the busy bit
cleared. -/
theorem stepExecutesPlacedCommand : Obligations.StepExecutesPlacedCommand := by
  intro s w
  refine ⟨release (latch (.unpack w) s), rfl, ?_⟩
  rw [State.withFetchWord, commandOfTableWord_toNat]
  calc step (pendingTurn (.unpack w) s)
    _ = blockTurn (latch (.unpack w) s) := step_of_cons (pendingTurn_todo _ s)
    _ = exec (decodeWord w) (release (latch (.unpack w) s)) := blockTurn_busy (latch_pend _ s)

/-- Settles O50, by evaluating the assembler on each line. -/
theorem specLinesAssemble : Obligations.SpecLinesAssemble := by
  refine ⟨?_, ?_, ?_, ?_, ?_, ?_⟩ <;> decide

end Sys2Proof.Machine
end

section
/-! PROOFS of the family 40_mul64.md. First the facts that the proofs share: what MUL64 writes, the product with its bounds,
its two halves as words and as one 128-bit number, and the host's addition with one carry. Then the obligations. -/

namespace Sys2Proof.Machine

variable {v : Nat}

/-! ### What MUL64 writes (R48) -/

theorem exec_mul64 (x y : Word) (s : State) :
    exec (.mul64 x y) s = .next (writeResult (highHalf (product x y)) (lowHalf (product x y)) s) :=
  exec_of_answer rfl

/-! ### The halves of a value -/

theorem highHalf_eq_zero_iff (h : v < 2 ^ 128) : highHalf v = 0 ↔ v < 2 ^ 64 := by
  rw [← BitVec.toNat_inj, highHalf_toNat h]
  exact Nat.div_eq_zero_iff_lt (by decide)

theorem lowHalf_word_toNat (x : Word) : lowHalf x.toNat = x := by
  rw [lowHalf_eq_ofNat, BitVec.ofNat_toNat, BitVec.setWidth_eq]

/-- The two halves side by side are the whole value (R27). -/
theorem append_halves_toNat (h : v < 2 ^ 128) : (highHalf v ++ lowHalf v).toNat = v :=
  (append_toNat ..).trans (wide_halves h)

/-! ### The product and its halves (R49) -/

theorem product_comm (x y : Word) : product x y = product y x := Nat.mul_comm ..

/-- Law (3) of R49. -/
theorem exec_mul64_comm (x y : Word) (s : State) : exec (.mul64 x y) s = exec (.mul64 y x) s := by
  rw [exec_mul64, exec_mul64, product_comm]

theorem product_one_right (x : Word) : product x 1 = x.toNat := Nat.mul_one _

theorem product_eq_zero {x y : Word} (h : x = 0 ∨ y = 0) : product x y = 0 := by
  obtain rfl | rfl := h
  · exact Nat.zero_mul _
  · exact Nat.mul_zero _

theorem product_le (x y : Word) : product x y ≤ (2 ^ 64 - 1) ^ 2 := by
  rw [Nat.pow_two]
  exact Nat.mul_le_mul (Nat.le_pred_of_lt x.isLt) (Nat.le_pred_of_lt y.isLt)

/-- The largest product is 2^128 - 2^65 + 1, so the high half is never all ones. -/
theorem highHalf_product_le (x y : Word) : (highHalf (product x y)).toNat ≤ 2 ^ 64 - 2 := by
  have := product_le x y
  rw [highHalf_toNat (product_lt x y)]
  omega

/-- The low half is the product of the words themselves, which wraps. -/
theorem lowHalf_product (x y : Word) : lowHalf (product x y) = x * y := by
  apply BitVec.eq_of_toNat_eq
  rw [lowHalf_toNat, BitVec.toNat_mul, product]

/-- Below 2^63 the product stays below 2^126, so no sign bit is set in the operands or in the two halves (R50). -/
theorem append_halves_product_toInt {x y : Word} (hx : x.toNat < 2 ^ 63) (hy : y.toNat < 2 ^ 63) :
    (highHalf (product x y) ++ lowHalf (product x y)).toInt = x.toInt * y.toInt := by
  have hwhole := append_halves_toNat (product_lt x y)
  have hp : product x y < 2 ^ 63 * 2 ^ 63 := Nat.mul_lt_mul'' hx hy
  rw [BitVec.toInt_eq_toNat_of_lt (by omega), BitVec.toInt_eq_toNat_of_lt (by omega),
    BitVec.toInt_eq_toNat_of_lt (by omega), hwhole, product, Nat.cast_mul]

/-! ### The host's addition (R51) -/

/-- Two double words, the first one word further up, added word by word with one carry out of the middle word. Where the
top word is not all ones it has room for the carry. -/
theorem wide_add_wide_carry {h1 l1 h0 l0 : Word} (htop : h1.toNat ≤ 2 ^ 64 - 2) :
    let mid := l1.toNat + h0.toNat
    let c := if 2 ^ 64 ≤ mid then 1 else 0
    h1.toNat + c < 2 ^ 64 ∧
    wide h1 l1 * 2 ^ 64 + wide h0 l0 = (h1.toNat + c) * 2 ^ 128 + mid % 2 ^ 64 * 2 ^ 64 + l0.toNat := by
  have hl1 := l1.isLt
  have hh0 := h0.isLt
  simp only [wide]
  split <;> omega

/-! ### The obligations -/

/-- Settles O9: MUL64 writes the two halves of the product, which put together give it back. -/
theorem mul64WritesExactProduct : Obligations.Mul64WritesExactProduct := by
  refine ⟨fun _ _ _ => decode_of_op_mul64 rfl, fun x y s => ⟨_, exec_mul64 x y s, rfl,
    highHalf_toNat (product_lt x y), lowHalf_toNat _, wide_halves (product_lt x y), product_le x y,
    fun hzero => ?_, ?_, ?_, ?_⟩⟩
  · rw [product_eq_zero hzero]; exact ⟨rfl, rfl⟩
  · rintro rfl
    rw [product_one_right]
    exact ⟨(highHalf_eq_zero_iff (by omega)).mpr x.isLt, lowHalf_word_toNat x⟩
  · rintro rfl rfl; exact ⟨rfl, rfl⟩
  · rintro rfl rfl; exact ⟨rfl, rfl⟩

/-- Settles O10: each law is a fact about the product or its halves; the halves do not depend on the state. -/
theorem mul64Laws : Obligations.Mul64Laws := fun x y s =>
  ⟨_, exec_mul64 x y s, product_lt x y, wide_halves (product_lt x y), highHalf_product_le x y,
    (exec_mul64_comm y x s).trans (exec_mul64 x y s), lowHalf_product x y, highHalf_eq_zero_iff (product_lt x y),
    fun s' => ⟨_, exec_mul64 x y s', rfl, rfl⟩⟩

/-- Settles O11: below 2^63 the sign bits are all 0, and 2^64 - 1 times 2 is evaluated. -/
theorem mul64UnsignedAgreesWithSignedBelowTwoTo63 : Obligations.Mul64UnsignedAgreesWithSignedBelowTwoTo63 :=
  ⟨fun x y s hx hy => ⟨_, exec_mul64 x y s, append_halves_product_toInt hx hy⟩,
    fun s => ⟨_, exec_mul64 _ _ s, rfl⟩⟩

/-- Settles O12: the two results are the two products, and a high half of at most 2^64 - 2 has room for the carry. -/
theorem wideProductFromTwoMul64 : Obligations.WideProductFromTwoMul64 := by
  intro m t1 t0 s
  refine ⟨_, _, exec_mul64 m t0 s, exec_mul64 m t1 _, ?_⟩
  obtain ⟨hfits, hsum⟩ := wide_add_wide_carry (l1 := lowHalf (product m t1)) (h0 := highHalf (product m t0))
    (l0 := lowHalf (product m t0)) (highHalf_product_le m t1)
  refine ⟨hfits, Eq.trans ?_ hsum⟩
  calc m.toNat * (t1.toNat * 2 ^ 64 + t0.toNat)
    _ = product m t1 * 2 ^ 64 + product m t0 := by rw [product, product]; ring
    _ = wide (highHalf (product m t1)) (lowHalf (product m t1)) * 2 ^ 64 +
          wide (highHalf (product m t0)) (lowHalf (product m t0)) := by
      rw [wide_halves (product_lt m t1), wide_halves (product_lt m t0)]

end Sys2Proof.Machine
end

section
/-! PROOFS of the family 41_shr128.md. First the facts that the proofs share: what SHR128 and MOD1E9 write, the shifted value
with its high half, the low word bit by bit, and how a second shift goes on where the first left off. Then the obligations. -/

namespace Sys2Proof.Machine

variable {hi hi' lo : Word} {d : Dist}

/-! ### What SHR128 and MOD1E9 write (R52, R57) -/

theorem exec_shr128 (hi lo : Word) (d : Dist) (s : State) :
    exec (.shr128 hi lo d) s = .next (writeResult 0 (lowHalf (shifted hi lo d)) s) :=
  exec_of_answer rfl

theorem exec_mod1e9 (hi lo : Word) (s : State) :
    exec (.mod1e9 hi lo) s = .next (writeResult 0 (lowHalf (remainder hi lo)) s) :=
  exec_of_answer rfl

/-! ### The shifted value and its high half (R27, R56) -/

theorem wide_eq_append_toNat (hi lo : Word) : wide hi lo = (hi ++ lo).toNat := (append_toNat hi lo).symm

theorem wide_div_two_pow_64 (hi lo : Word) : wide hi lo / 2 ^ 64 = hi.toNat := by
  have := lo.isLt
  simp only [wide]; omega

/-- The high half of the shifted value is the high half shifted. -/
theorem shifted_div_two_pow_64 (hi lo : Word) (d : Dist) :
    shifted hi lo d / 2 ^ 64 = hi.toNat / 2 ^ effectiveDist d := by
  rw [shifted, Nat.div_right_comm, wide_div_two_pow_64]

/-- With hi = 0 SHR128 is the 64-bit logical shift (R55 (5)). -/
theorem lowHalf_shifted_zero_left (lo : Word) (d : Dist) : lowHalf (shifted 0 lo d) = lo >>> effectiveDist d := by
  have hwide : wide 0 lo = lo.toNat := by simp [wide]
  have hle : lo.toNat / 2 ^ effectiveDist d ≤ lo.toNat := Nat.div_le_self ..
  apply BitVec.eq_of_toNat_eq
  rw [lowHalf_toNat, shifted, hwide, BitVec.toNat_ushiftRight, Nat.shiftRight_eq_div_pow,
    Nat.mod_eq_of_lt (hle.trans_lt lo.isLt)]

/-- The host keeps the high half of a shifted value by a SHR128 of its own (R55 (5)). -/
theorem lowHalf_shifted_zero_left_eq_highHalf (hi lo : Word) (d : Dist) :
    lowHalf (shifted 0 hi d) = highHalf (shifted hi lo d) := by
  apply BitVec.eq_of_toNat_eq
  rw [highHalf_toNat (shifted_lt hi lo d), shifted_div_two_pow_64, lowHalf_shifted_zero_left,
    BitVec.toNat_ushiftRight, Nat.shiftRight_eq_div_pow]

/-- The results of the two SHR128 are the two halves of the shifted value. -/
theorem wide_lowHalf_shifted (hi lo : Word) (d : Dist) :
    wide (lowHalf (shifted 0 hi d)) (lowHalf (shifted hi lo d)) = shifted hi lo d := by
  rw [lowHalf_shifted_zero_left_eq_highHalf hi lo, wide_halves (shifted_lt hi lo d)]

/-- Nothing is lost where hi is below 2^d (R55 (3)). -/
theorem lowHalf_shifted_toNat_of_lt (h : hi.toNat < 2 ^ effectiveDist d) :
    (lowHalf (shifted hi lo d)).toNat = shifted hi lo d := by
  have hhigh : shifted hi lo d / 2 ^ 64 = 0 := by rw [shifted_div_two_pow_64, Nat.div_eq_of_lt h]
  rw [lowHalf_toNat, Nat.mod_eq_of_lt ((Nat.div_eq_zero_iff_lt (by decide)).mp hhigh)]

/-- With lo = 0 the low bits of hi move to the top of the word (R52). -/
theorem lowHalf_shifted_zero_right_toNat (hi : Word) (d : Dist) :
    (lowHalf (shifted hi 0 d)).toNat = hi.toNat % 2 ^ effectiveDist d * 2 ^ (64 - effectiveDist d) := by
  have hpow : 2 ^ 64 = 2 ^ effectiveDist d * 2 ^ (64 - effectiveDist d) := by
    rw [← Nat.pow_add, Nat.add_sub_cancel' (effectiveDist_lt d).le]
  have hwide : wide hi 0 = 2 ^ effectiveDist d * (hi.toNat * 2 ^ (64 - effectiveDist d)) := by
    rw [Nat.mul_left_comm, ← hpow]; exact Nat.add_zero _
  rw [lowHalf_toNat, shifted, hwide, Nat.mul_div_cancel_left _ (Nat.two_pow_pos _), hpow, Nat.mul_mod_mul_right]

/-! ### The low word of the shifted value, bit by bit (R54) -/

theorem lowHalf_shifted_eq_setWidth (hi lo : Word) (d : Dist) :
    lowHalf (shifted hi lo d) = ((hi ++ lo) >>> effectiveDist d).setWidth 64 := by
  apply BitVec.eq_of_toNat_eq
  rw [lowHalf_toNat, shifted, wide_eq_append_toNat, BitVec.toNat_setWidth, BitVec.toNat_ushiftRight,
    Nat.shiftRight_eq_div_pow]

/-- Each bit of the result comes from lo while lo lasts, and then from hi. -/
theorem lowHalf_shifted_getLsbD {k : Nat} (hk : k < 64) :
    (lowHalf (shifted hi lo d)).getLsbD k =
      if k + effectiveDist d < 64 then lo.getLsbD (k + effectiveDist d)
      else hi.getLsbD (k + effectiveDist d - 64) := by
  rw [lowHalf_shifted_eq_setWidth, BitVec.getLsbD_setWidth, BitVec.getLsbD_ushiftRight, BitVec.getLsbD_append,
    decide_eq_true hk, Bool.true_and, Nat.add_comm k]

/-- Only the low d bits of hi reach the result (R55 (2)). -/
theorem lowHalf_shifted_congr_left (h : ∀ k, k < effectiveDist d → hi'.getLsbD k = hi.getLsbD k) :
    lowHalf (shifted hi' lo d) = lowHalf (shifted hi lo d) := by
  apply BitVec.eq_of_getLsbD_eq
  intro k hk
  rw [lowHalf_shifted_getLsbD hk, lowHalf_shifted_getLsbD hk]
  split
  next => rfl
  next hhigh => exact h _ (by omega)

theorem exec_shr128_congr_left (h : ∀ k, k < effectiveDist d → hi'.getLsbD k = hi.getLsbD k) (s : State) :
    exec (.shr128 hi' lo d) s = exec (.shr128 hi lo d) s := by
  rw [exec_shr128, exec_shr128, lowHalf_shifted_congr_left h]

theorem getLsbD_eq_of_mod_two_pow_eq {n k : Nat} (h : hi'.toNat % 2 ^ n = hi.toNat % 2 ^ n) (hk : k < n) :
    hi'.getLsbD k = hi.getLsbD k := by
  have hbit := congrArg (Nat.testBit · k) h
  simpa [Nat.testBit_mod_two_pow, hk, BitVec.testBit_toNat] using hbit

theorem lowHalf_shifted_of_effectiveDist_eq_zero (h : effectiveDist d = 0) : lowHalf (shifted hi lo d) = lo := by
  apply BitVec.eq_of_getLsbD_eq
  intro k hk
  rw [lowHalf_shifted_getLsbD hk, h, Nat.add_zero, if_pos hk]

/-- The two parts of the half-wise form never overlap, at any distance. -/
theorem shiftLeft_and_ushiftRight_eq_zero (hi lo : Word) (n : Nat) : (hi <<< (64 - n)) &&& (lo >>> n) = 0 := by
  apply BitVec.eq_of_getLsbD_eq
  intro k hk
  rw [BitVec.getLsbD_and, BitVec.getLsbD_shiftLeft, BitVec.getLsbD_ushiftRight]
  obtain hlow | hhigh := Nat.lt_or_ge k (64 - n)
  · simp [hlow]
  · simp [BitVec.getLsbD_of_ge lo (n + k) (by omega)]

/-- The half-wise form (R54). At distance 0 the shift of a `BitVec` by its whole width gives 0, and the form holds
too; in hardware R54 forbids it there. -/
theorem lowHalf_shifted_eq_or (hi lo : Word) (d : Dist) :
    lowHalf (shifted hi lo d) = (hi <<< (64 - effectiveDist d)) ||| (lo >>> effectiveDist d) := by
  have hd := effectiveDist_lt d
  apply BitVec.eq_of_getLsbD_eq
  intro k hk
  rw [lowHalf_shifted_getLsbD hk, BitVec.getLsbD_or, BitVec.getLsbD_shiftLeft, BitVec.getLsbD_ushiftRight,
    Nat.add_comm (effectiveDist d)]
  split
  next hlow => simp [show k < 64 - effectiveDist d by omega]
  next hhigh =>
    have hindex : k - (64 - effectiveDist d) = k + effectiveDist d - 64 := by omega
    have hpast : lo.getLsbD (k + effectiveDist d) = false := BitVec.getLsbD_of_ge _ _ (by omega)
    simp [hk, hindex, hpast, show ¬ k < 64 - effectiveDist d by omega]

/-! ### A second shift (R55 (6)) -/

/-- While the sum of the distances stays below 64, shifting the shifted value is shifting once by the sum. -/
theorem shifted_wide_lowHalf_shifted {d2 : Dist} (h : effectiveDist d + effectiveDist d2 < 64) :
    shifted (lowHalf (shifted 0 hi d)) (lowHalf (shifted hi lo d)) d2 =
      shifted hi lo (BitVec.ofNat 8 (effectiveDist d + effectiveDist d2)) := by
  have hsum : effectiveDist (BitVec.ofNat 8 (effectiveDist d + effectiveDist d2)) =
      effectiveDist d + effectiveDist d2 := by
    simp only [effectiveDist, Config.distMod, BitVec.toNat_ofNat] at h ⊢
    omega
  rw [shifted, wide_lowHalf_shifted, shifted, Nat.div_div_eq_div_mul, ← Nat.pow_add, shifted, hsum]

/-! ### The obligations -/

/-- Settles O13: the corner cases of the distance are equal distances modulo 64, those of the halves are facts about the
low word of the shifted value. -/
theorem shr128WritesLowWord : Obligations.Shr128WritesLowWord := by
  refine ⟨fun _ _ _ => decode_of_op_shr128 rfl, fun hi lo d s => ⟨_, exec_shr128 hi lo d s, rfl,
    lowHalf_toNat _, lowHalf_shifted_of_effectiveDist_eq_zero, ?_, ?_, ?_, ?_, ?_, fun hi' h => ?_, ?_⟩⟩
  · rintro (rfl | rfl | rfl) <;> exact exec_shr128_congr (by decide) s
  · rintro rfl; exact exec_shr128_congr (by decide) s
  · rintro rfl; exact exec_shr128_congr (by decide) s
  · rintro rfl; exact lowHalf_shifted_zero_left lo d
  · rintro rfl _; exact lowHalf_shifted_zero_right_toNat hi d
  · exact exec_shr128_congr_left (fun _ => getLsbD_eq_of_mod_two_pow_eq h) s
  · rintro rfl rfl rfl; rfl

/-- Settles O14: the OR form holds bit by bit, and is a sum because the parts do not overlap. -/
theorem shr128HalfWiseForm : Obligations.Shr128HalfWiseForm := by
  intro hi lo d s
  refine ⟨_, exec_shr128 hi lo d s, fun _ => ?_, lowHalf_shifted_of_effectiveDist_eq_zero⟩
  have hor : lowHalf (shifted hi lo d) = _ := lowHalf_shifted_eq_or hi lo d
  have hdisjoint := shiftLeft_and_ushiftRight_eq_zero hi lo (effectiveDist d)
  refine ⟨hor, hor.trans (BitVec.add_eq_or_of_and_eq_zero _ _ hdisjoint).symm, hdisjoint,
    fun k hk => ?_, fun k hle hk => ?_⟩
  · exact (lowHalf_shifted_getLsbD (by omega)).trans (if_pos (Nat.add_lt_of_lt_sub hk))
  · exact (lowHalf_shifted_getLsbD hk).trans (if_neg (Nat.not_lt.mpr (Nat.sub_le_iff_le_add.mp hle)))

/-- Settles O15, law by law; 2^63 shifted by 32 twice is 0, and shifted by 64 is itself. -/
theorem shr128Laws : Obligations.Shr128Laws := by
  refine ⟨fun hi lo d s => ⟨_, exec_shr128 hi lo d s, fun d' s' h => ?_, fun hi' h => exec_shr128_congr_left h s,
    lowHalf_shifted_toNat_of_lt, fun x y => ?_, fun x => ?_, ?_, fun d2 h => ?_, rfl⟩, fun s => ?_⟩
  · exact ⟨_, (exec_shr128_congr_low_bits h s').trans (exec_shr128 hi lo d s'), rfl, rfl⟩
  · refine ⟨_, exec_mul64 x y s, _, exec_shr128 _ _ d _, ?_⟩
    simp only [writeResult_rHi, writeResult_rLo, shifted_product]
    exact lowHalf_toNat _
  · exact ⟨_, exec_shr128 0 x d s, lowHalf_shifted_zero_left x d⟩
  · refine ⟨_, exec_shr128 0 hi d s, ?_⟩
    rw [writeResult_rLo, lowHalf_shifted_zero_left_eq_highHalf hi lo, highHalf_toNat (shifted_lt hi lo d)]
    rfl
  · refine ⟨_, exec_shr128 0 hi d s, _, exec_shr128 _ _ d2 _, (exec_shr128 ..).trans ?_⟩
    simp only [writeResult_rLo, shifted_wide_lowHalf_shifted h]
    rfl
  · refine ⟨_, _, _, exec_shr128 .., exec_shr128 .., exec_shr128 .., ?_⟩
    simp only [writeResult_rLo]
    decide

/-- Settles O16: distance 64 is distance 0, and the high half of the shifted value is hi shifted. -/
theorem shr128IsNoFullWidthShifter : Obligations.Shr128IsNoFullWidthShifter := by
  intro hi lo s
  have hlo : lowHalf (shifted hi lo 64) = lo := lowHalf_shifted_of_effectiveDist_eq_zero rfl
  refine ⟨⟨_, exec_shr128 hi lo 64 s, hlo, fun hne heq => hne (heq.symm.trans hlo)⟩, fun d h => ⟨?_, ?_⟩⟩
  · exact (shifted_div_two_pow_64 hi lo d).trans_ne (Nat.div_pos h (Nat.two_pow_pos _)).ne'
  · exact ⟨_, exec_shr128 hi lo d s, rfl⟩

/-- Settles O23: the two shifts leave the two halves of the shifted product, which the remainder unit reduces. -/
theorem multiplyShiftReduceGivesBlock : Obligations.MultiplyShiftReduceGivesBlock := by
  intro x y d s
  refine ⟨_, _, _, _, exec_mul64 x y s, exec_shr128 _ _ d _, exec_shr128 0 _ d _, exec_mod1e9 _ _ _, ?_⟩
  simp only [writeResult_rHi, writeResult_rLo, lowHalf_remainder_toNat, wide_lowHalf_shifted]
  rw [shifted_product]
  rfl

end Sys2Proof.Machine
end

section
/-! PROOFS of the family 42_mod1e9.md. First the facts that the proofs share: the remainder as a word, slices of a small
word, the decimal digits of a remainder, the remainder from low bits only, and by how much the reciprocal method misses.
Then the obligations. -/

namespace Sys2Proof.Machine

variable {hi lo : Word}

/-! ### The remainder as a word (R57, R59) -/

theorem lowHalf_remainder_lt (hi lo : Word) : (lowHalf (remainder hi lo)).toNat < 10 ^ 9 :=
  (lowHalf_remainder_toNat hi lo).trans_lt (Nat.mod_lt _ (by decide))

theorem wide_zero_left (lo : Word) : wide 0 lo = lo.toNat := by simp [wide]

/-- A value below the modulus is its own remainder. -/
theorem lowHalf_remainder_of_lt (h : wide hi lo < 10 ^ 9) : lowHalf (remainder hi lo) = lo := by
  have hlo : wide hi lo = lo.toNat := by simp only [wide] at h ⊢; omega
  apply BitVec.eq_of_toNat_eq
  rw [lowHalf_remainder_toNat, Nat.mod_eq_of_lt h, hlo]

/-- Idempotence, law (2) of R59. -/
theorem lowHalf_remainder_idem (hi lo : Word) :
    lowHalf (remainder 0 (lowHalf (remainder hi lo))) = lowHalf (remainder hi lo) :=
  lowHalf_remainder_of_lt ((wide_zero_left _).trans_lt (lowHalf_remainder_lt hi lo))

/-- From the halves, law (3) of R59; 709551616 is 2^64 modulo 10^9. -/
theorem wide_mod_from_halves (hi lo : Word) :
    wide hi lo % 10 ^ 9 = (hi.toNat % 10 ^ 9 * 709551616 + lo.toNat % 10 ^ 9) % 10 ^ 9 := by
  simp only [wide]; omega

/-- The low `m` decimal digits of a value are those of its remainder modulo 10^m. -/
theorem mod_ten_pow_digit {k m : Nat} (v : Nat) (h : k < m) : v % 10 ^ m / 10 ^ k % 10 = v / 10 ^ k % 10 := by
  have hpow : 10 ^ m = 10 ^ k * 10 ^ (m - k) := by rw [← Nat.pow_add, Nat.add_sub_cancel' h.le]
  have hdvd : 10 ∣ 10 ^ (m - k) := dvd_pow_self 10 (Nat.sub_ne_zero_of_lt h)
  rw [hpow, Nat.mod_mul_right_div_self, Nat.mod_mod_of_dvd _ hdvd]

/-! ### Slices of a small word (R58) -/

theorem extractLsb'_zero_toNat_of_lt {x : Word} {n : Nat} (h : x.toNat < 2 ^ n) :
    (x.extractLsb' 0 n).toNat = x.toNat := by
  rw [BitVec.extractLsb'_toNat, Nat.shiftRight_zero, Nat.mod_eq_of_lt h]

theorem extractLsb'_eq_zero_of_lt {x : Word} {k : Nat} (n : Nat) (h : x.toNat < 2 ^ k) : x.extractLsb' k n = 0 := by
  apply BitVec.eq_of_toNat_eq
  rw [BitVec.extractLsb'_toNat, Nat.shiftRight_eq_div_pow, Nat.div_eq_of_lt h, Nat.zero_mod]
  rfl

/-! ### The remainder from the low 32 bits (R61) -/

theorem extractLsb'_zero_eq_ofNat (x : Word) (n : Nat) : x.extractLsb' 0 n = BitVec.ofNat n x.toNat := by
  apply BitVec.eq_of_toNat_eq
  rw [BitVec.extractLsb'_toNat, Nat.shiftRight_zero, BitVec.toNat_ofNat]

/-- The high half does not reach the low 32 bits of a value. -/
theorem ofNat_wide (hi lo : Word) : BitVec.ofNat 32 (wide hi lo) = lo.extractLsb' 0 32 := by
  apply BitVec.eq_of_toNat_eq
  rw [extractLsb'_zero_eq_ofNat, BitVec.toNat_ofNat, BitVec.toNat_ofNat, wide]
  omega

/-- The remainder in wrapping arithmetic, at any width. -/
theorem ofNat_mod_eq_sub (n v m : Nat) :
    BitVec.ofNat n (v % m) = BitVec.ofNat n v - BitVec.ofNat n m * BitVec.ofNat n (v / m) := by
  apply eq_sub_of_add_eq
  rw [← BitVec.ofNat_mul, ← BitVec.ofNat_add, Nat.mod_add_div]

/-! ### The reciprocal method (R60)

The method multiplies by a constant `C` with `C * M = S + e`, where `M` is the modulus, `S` the scale and `e` the error of
rounding up, and divides by `S`. -/

/-- How far the method's quotient and the remainder miss the value: the rounding error, carried along by `v`, may push the
quotient over the next multiple of the modulus. -/
theorem mod_add_mul_reciprocal {M S C e : Nat} (hM : 0 < M) (hS : 0 < S) (hC : C * M = S + e) (v : Nat) :
    v % M + M * (v * C / S) = v + M * ((v % M * S + v * e) / (M * S)) := by
  have hnum : v * C * M = M * S * (v / M) + (v % M * S + v * e) := by
    calc v * C * M = v * S + v * e := by rw [Nat.mul_assoc, hC, Nat.mul_add]
      _ = (M * (v / M) + v % M) * S + v * e := by rw [Nat.div_add_mod]
      _ = M * S * (v / M) + (v % M * S + v * e) := by ring
  have hquot : v * C / S = v / M + (v % M * S + v * e) / (M * S) := by
    rw [← Nat.mul_div_mul_right _ _ hM, hnum, Nat.mul_comm S, Nat.mul_add_div (Nat.mul_pos hM hS)]
  rw [hquot, Nat.mul_add, ← Nat.add_assoc, Nat.mod_add_div]

/-- The method is exact where the error stays below what is missing to the next multiple of the modulus. -/
theorem mod_add_mul_reciprocal_of_lt {M S C e v : Nat} (hC : C * M = S + e) (h : v % M * S + v * e < M * S) :
    v % M + M * (v * C / S) = v := by
  rw [mod_add_mul_reciprocal (Nat.pos_of_lt_mul_right h) (Nat.pos_of_lt_mul_left h) hC, Nat.div_eq_of_lt h,
    Nat.mul_zero, Nat.add_zero]

/-- At scale 2^157 the error is 8432128, too small to matter below 2^128. -/
theorem reciprocal_157_exact {v : Nat} (h : v < 2 ^ 128) :
    v % 1000000000 + 1000000000 * (v * 0x89705F4136B4A59731680A88F8953031 / 2 ^ 157) = v :=
  mod_add_mul_reciprocal_of_lt (e := 8432128) (by decide) (by omega)

/-- At scale 2^89 the error is 550437888. It matters first where the remainder is the largest, from v = 2^89 / 550437888
on. -/
theorem reciprocal_89_exact {v : Nat} (h : v < 1124504750999999999) :
    v % 1000000000 + 1000000000 * (v * 0x089705F4136B4A5A / 2 ^ 89) = v :=
  mod_add_mul_reciprocal_of_lt (e := 550437888) (by decide) (by omega)

/-! ### The obligations -/

/-- Settles O17: the low half holds the whole remainder; the corner values are evaluated. -/
theorem mod1e9WritesExactRemainder : Obligations.Mod1e9WritesExactRemainder := by
  refine ⟨fun _ _ _ => decode_of_op_mod1e9 rfl, fun hi lo s => ⟨_, exec_mod1e9 hi lo s, rfl,
    lowHalf_remainder_toNat hi lo, Nat.le_of_lt_succ (lowHalf_remainder_lt hi lo), lowHalf_remainder_of_lt,
    ?_, ?_, ?_, ?_, ?_, ?_⟩⟩
  · rintro rfl rfl; rfl
  · rintro rfl rfl; rfl
  · rintro rfl
    exact (lowHalf_remainder_toNat 0 lo).trans (congrArg (· % 10 ^ 9) (wide_zero_left lo))
  · rintro rfl rfl; rfl
  · rintro rfl rfl; rfl
  · rintro rfl rfl; rfl

/-- Settles O18: a remainder is below 2^30, so the bits above are 0 and the lower slices are all of it. -/
theorem mod1e9ResultFitsThirtyBits : Obligations.Mod1e9ResultFitsThirtyBits := by
  intro hi lo s
  have hlt := lowHalf_remainder_lt hi lo
  have hle := Nat.le_of_lt_succ hlt
  have hthirty : (lowHalf (remainder hi lo)).toNat < 2 ^ 30 := hlt.trans (by decide)
  exact ⟨_, exec_mod1e9 hi lo s, hle, hle, hthirty, extractLsb'_eq_zero_of_lt 34 hthirty,
    (extractLsb'_zero_toNat_of_lt hthirty).trans (lowHalf_remainder_toNat hi lo),
    extractLsb'_zero_toNat_of_lt (hthirty.trans (by decide))⟩

/-- Settles O19: each law is a fact about the remainder of the value modulo 10^9. -/
theorem mod1e9Laws : Obligations.Mod1e9Laws := by
  intro hi lo s
  have hr := lowHalf_remainder_toNat hi lo
  have hlt := lowHalf_remainder_lt hi lo
  refine ⟨_, exec_mod1e9 hi lo s, hlt, hr.trans_le (Nat.mod_le _ _), ?_,
    ⟨_, exec_mod1e9 0 _ _, lowHalf_remainder_idem hi lo⟩, by decide, hr.trans (wide_mod_from_halves hi lo),
    fun k hk => ?_, fun k hk => ?_, fun s' => ⟨_, exec_mod1e9 hi lo s', rfl, rfl⟩⟩
  · rw [writeResult_rLo, hr]
    exact Nat.dvd_sub_mod (wide hi lo)
  · rw [writeResult_rLo, hr]
    exact mod_ten_pow_digit (wide hi lo) hk
  · exact Nat.div_eq_of_lt (hlt.trans_le (Nat.pow_le_pow_right (by decide) hk))

/-- Settles O20: at 32 bits the remainder is the value minus the modulus times the quotient, in wrapping arithmetic, and
32 bits hold it. -/
theorem mod1e9FromLowThirtyTwoBits : Obligations.Mod1e9FromLowThirtyTwoBits := by
  intro hi lo s
  have hlt : (lowHalf (remainder hi lo)).toNat < 2 ^ 32 := (lowHalf_remainder_lt hi lo).trans (by decide)
  refine ⟨_, exec_mod1e9 hi lo s, hlt, ?_, (extractLsb'_zero_toNat_of_lt hlt).symm⟩
  calc (lowHalf (remainder hi lo)).extractLsb' 0 32
    _ = BitVec.ofNat 32 (wide hi lo % 10 ^ 9) := by rw [extractLsb'_zero_eq_ofNat, lowHalf_remainder_toNat]
    _ = BitVec.ofNat 32 (wide hi lo) - BitVec.ofNat 32 (10 ^ 9) * BitVec.ofNat 32 (wide hi lo / 10 ^ 9) :=
      ofNat_mod_eq_sub ..
    _ = lo.extractLsb' 0 32 - 1000000000#32 * BitVec.ofNat 32 (wide hi lo / 1000000000) := by
      rw [ofNat_wide]; rfl

/-- Settles O21: every value is below 2^128. -/
theorem reciprocalAt157EqualsRemainder : Obligations.ReciprocalAt157EqualsRemainder := by
  refine ⟨by decide, fun hi lo s => ⟨_, exec_mod1e9 hi lo s, ?_⟩⟩
  rw [writeResult_rLo, lowHalf_remainder_toNat]
  exact reciprocal_157_exact (wide_lt hi lo)

/-- Settles O22: below the first failure the method is exact; the failures are evaluated, the one at scale 2^156 at
181160139184263340700962478745999999999. -/
theorem reciprocalAt89FirstFails : Obligations.ReciprocalAt89FirstFails := by
  refine ⟨by decide, fun hi lo s h => ⟨_, exec_mod1e9 hi lo s, ?_⟩, fun hi lo s h => ⟨_, exec_mod1e9 hi lo s, ?_⟩,
    fun s => ⟨_, exec_mod1e9 _ _ s, ?_⟩, 0x884A2C763096B394, 0x5DC80603382183FF, fun s => ⟨_, exec_mod1e9 _ _ s, ?_⟩⟩
  · rw [writeResult_rLo, lowHalf_remainder_toNat]
    exact reciprocal_89_exact h
  · have hr : (lowHalf (remainder hi lo)).toNat = 999999999 :=
      (lowHalf_remainder_toNat hi lo).trans (congrArg (· % 10 ^ 9) h)
    rw [writeResult_rLo, hr, h]
    exact ⟨BitVec.eq_of_toNat_eq hr, by decide⟩
  · rw [writeResult_rLo]; decide
  · rw [writeResult_rLo]; decide

end Sys2Proof.Machine
end

section
/-! PROOFS of the family 60_exceptions.md. First what one step of one instance among several is. Then the obligations. -/

namespace Sys2Proof.Machine

variable {k : Nat} {blocks blocks' : List State} {s t : State}

/-! ### One instance among several -/

theorem stepAt_of_none (h : blocks[k]? = none) : stepAt k blocks = .next blocks := by
  simp [stepAt, h]

/-- A step of instance `k` that goes on replaces that instance alone. -/
theorem stepAt_of_next (hk : blocks[k]? = some s) (h : step s = .next t) :
    stepAt k blocks = .next (blocks.set k t) := by
  simp [stepAt, hk, h]

/-- A refusal of instance `k` is the refusal of the whole step. -/
theorem stepAt_of_refused {r : Refusal} (hk : blocks[k]? = some s) (h : step s = .refused r) :
    stepAt k blocks = .refused r := by
  simp [stepAt, hk, h]

/-- All that a step of instance `k` which goes on can do: nothing where there is no such instance, or that instance's own
step. -/
theorem stepAt_cases (h : stepAt k blocks = .next blocks') :
    (blocks[k]? = none ∧ blocks' = blocks) ∨
      (∃ s t, blocks[k]? = some s ∧ step s = .next t ∧ blocks' = blocks.set k t) := by
  cases hk : blocks[k]? with
  | none => rw [stepAt_of_none hk] at h; cases h; exact .inl ⟨rfl, rfl⟩
  | some s =>
    cases hs : step s with
    | next t => rw [stepAt_of_next hk hs] at h; cases h; exact .inr ⟨s, t, rfl, hs, rfl⟩
    | fault r => cases r
    | refused r => rw [stepAt_of_refused hk hs] at h; cases h

/-! ### The obligations -/

/-- Settles O25: ERR falls only by a reset; no instruction reads ERR, a legal one does not write it, and the reserved one
sets it. -/
theorem errIsStickyAndDoesNotBlock : Obligations.ErrIsStickyAndDoesNotBlock := by
  refine ⟨fun s t hs hm h => ?_, fun i s => ?_⟩
  · obtain ⟨-, hfall⟩ := errChangesOnlyByReservedOrReset s t h
    exact eq_true_of_ne_false fun ht => hm (hfall hs ht)
  · obtain ⟨hi, lo, hr, ha, he⟩ | ⟨rfl, -, he⟩ := exec_cases i { s with err := false }
    · exact ⟨_, _, he, exec_of_answer ha, rfl, fun _ => ⟨rfl, rfl, rfl, rfl⟩, fun h => absurd h hr⟩
    · exact ⟨_, _, he, rfl, rfl, fun h => absurd rfl h, fun _ => ⟨rfl, rfl, rfl⟩⟩

/-- Settles O46: a step of instance `k` sets position `k` of the list to that instance's own next state. -/
theorem instancesShareNothing : Obligations.InstancesShareNothing := by
  intro blocks k
  refine ⟨fun blocks' h => ?_, fun s t hk hs => ⟨_, stepAt_of_next hk hs, ?_⟩⟩
  · obtain ⟨-, rfl⟩ | ⟨s, t, -, -, rfl⟩ := stepAt_cases h
    · exact ⟨rfl, fun _ _ => rfl⟩
    · exact ⟨List.length_set, fun j hj => List.getElem?_set_ne hj.symm⟩
  · obtain ⟨hlt, -⟩ := List.getElem?_eq_some_iff.mp hk
    exact List.getElem?_set_self hlt

end Sys2Proof.Machine
end

section
/-! PROOFS of the family 70_reset_and_hazards.md. First the facts that the proofs share: which moves are refused, a listed
reset and a listed issue as steps, STATUS polls in a row, and when a run has ended and is good. Then the obligations. -/

namespace Sys2Proof.Machine

variable {s : State} {c : Command} {r : Refusal} {rest : List Move}

/-! ### Which moves are refused (R81, R82) -/

@[simp] theorem dropMove_busy (s : State) : (dropMove s).busy = s.busy := rfl

theorem hostIssue_eq_refused_iff : hostIssue c s = .refused r ↔ r = .startWhileBusy ∧ s.busy = true := by
  obtain ⟨hp, h⟩ | ⟨c', hp, h⟩ := hostIssue_cases (s := s) (c := c)
  · simp [h, busy_eq_false_iff.mpr hp]
  · simp [h, busy_eq_true_iff.mpr ⟨c', hp⟩, eq_comm]

theorem hostReadHi_eq_refused_iff : hostReadHi s = .refused r ↔ r = .readWhileInvalid ∧ s.valid = false := by
  cases hv : s.valid with
  | true => simp [hostReadHi_of_valid hv]
  | false => simp [hostReadHi_of_invalid hv, eq_comm]

theorem hostReadLo_eq_refused_iff : hostReadLo s = .refused r ↔ r = .readWhileInvalid ∧ s.valid = false := by
  cases hv : s.valid with
  | true => simp [hostReadLo_of_valid hv]
  | false => simp [hostReadLo_of_invalid hv, eq_comm]

theorem blockTurn_ne_refused (s : State) (r : Refusal) : blockTurn s ≠ .refused r := by
  cases hp : s.pend with
  | none => simp [blockTurn_idle hp]
  | some c =>
    obtain ⟨t, he, -⟩ := exec_next (decode c) (release s)
    simp [blockTurn_busy hp, he]

/-- A step is refused for one of the two moves that the spec calls no move, and for nothing else (R87). -/
theorem step_eq_refused_iff : step s = .refused r ↔
    (r = .startWhileBusy ∧ s.busy = true ∧ ∃ c, nextMove s = .issue c) ∨
      (r = .readWhileInvalid ∧ s.valid = false ∧ (nextMove s = .readHi ∨ nextMove s = .readLo)) := by
  unfold step
  cases nextMove s with
  | issue c => simpa [takeMove] using hostIssue_eq_refused_iff (s := dropMove s)
  | readHi => simpa [takeMove] using hostReadHi_eq_refused_iff (s := dropMove s)
  | readLo => simpa [takeMove] using hostReadLo_eq_refused_iff (s := dropMove s)
  | block => simpa [takeMove] using blockTurn_ne_refused (dropMove s) r
  | readStatus => simp [takeMove, hostReadStatus]
  | reset => simp [takeMove]

/-! ### A listed reset and a listed issue (R75, R80) -/

theorem step_reset (h : s.todo = .reset :: rest) : step s = .next (takeReset { s with todo := rest }) :=
  step_of_cons h

theorem step_issue (hp : s.pend = none) (h : s.todo = .issue c :: rest) :
    step s = .next (latch c { s with todo := rest }) :=
  (step_of_cons h).trans (hostIssue_of_idle (s := { s with todo := rest }) hp)

/-! ### STATUS polls in a row -/

/-- `s` after `n` polls of STATUS, with `rest` still to come: only the host's copies have grown (20_memory.md R30). -/
def afterPolls (n : Nat) (rest : List Move) (s : State) : State :=
  { s with todo := rest, copies := s.copies ++ List.replicate n (.status s.status) }

/-- Every poll finds the flags and the busy bit as the first one did. -/
theorem afterPolls_copyOut_status (n : Nat) (moves : List Move) :
    afterPolls n rest (copyOut (.status s.status) { s with todo := moves }) = afterPolls (n + 1) rest s := by
  simp [afterPolls, copyOut, State.status, State.busy, List.replicate_succ]

theorem runSteps_polls (n m : Nat) (h : s.todo = List.replicate n .readStatus ++ rest) :
    runSteps (n + m) s = runSteps m (afterPolls n rest s) := by
  induction n generalizing s with
  | zero => obtain rfl : s.todo = rest := h; simp [afterPolls]
  | succ n ih =>
    have hpoll : step s = .next (copyOut (.status s.status) { s with todo := List.replicate n .readStatus ++ rest }) :=
      step_readStatus h
    rw [Nat.add_right_comm, runSteps_of_next hpoll, ih rfl, afterPolls_copyOut_status]

/-! ### The end of a run (R86) -/

theorem isStart_eq_true_iff {m : Move} : m.isStart = true ↔ ∃ c, m = .issue c := by
  cases m <;> simp [Move.isStart]

/-- A run has ended in an idle state with no start listed before the next reset. -/
theorem ended_iff : s.ended = true ↔ s.pend = none ∧ ∀ c, Move.issue c ∉ s.runTodo := by
  have hstarts : s.runTodo.any Move.isStart = false ↔ ∀ c, Move.issue c ∉ s.runTodo := by
    simp only [List.any_eq_false, isStart_eq_true_iff]
    exact ⟨fun h c hc => h _ hc ⟨c, rfl⟩, fun h m hm ⟨c, hc⟩ => h c (hc ▸ hm)⟩
  simp [State.ended, busy_eq_false_iff, hstarts]

theorem goodEnd_iff : s.goodEnd = true ↔ s.ended = true ∧ s.err = false ∧ s.valid = true := by
  simp [State.goodEnd, and_assoc]

theorem any_isReserved_eq_false_iff {cs : List Command} :
    cs.any Command.isReserved = false ↔ ∀ c ∈ cs, c.op ≠ 0b11#2 := by
  simp only [List.any_eq_false, isReserved_eq_true_iff, ne_eq]

/-! ### The obligations -/

/-- Settles O35, from the refusals move by move; `Fault` has no constructor. -/
theorem onlyHostErrorsAreRefused : Obligations.OnlyHostErrorsAreRefused :=
  fun _ => ⟨fun _ => step_eq_refused_iff, nofun⟩

/-- Settles O43: the polls only copy STATUS, and then the list is empty and the block executes the pending command. -/
theorem everyIssuedCommandCompletes : Obligations.EveryIssuedCommandCompletes := by
  intro s c n hp hs
  have hpolls : runSteps (n + 1) s = runSteps 1 (afterPolls n [] s) := runSteps_polls n 1 (by simpa using hs)
  have hblock : step (afterPolls n [] s) = exec (decode c) (release (afterPolls n [] s)) :=
    (step_of_nil rfl).trans (blockTurn_busy hp)
  obtain ⟨t, he, hx⟩ := exec_decode_executed c (release (afterPolls n [] s))
  refine ⟨t, ?_, hx.pend, hx.todo, hx.copies, fun hc => ?_, fun hc => ?_⟩
  · rw [hpolls, runSteps_one, hblock, he]
  · have hlegal := isReserved_eq_false_iff.mpr hc
    exact ⟨by simp [hx.valid, hlegal], by simp [hx.err, hlegal, afterPolls], hx.result hc⟩
  · have hres := isReserved_eq_true_iff.mpr hc
    exact ⟨by simp [hx.valid, hres], by simp [hx.err, hres]⟩

/-- Settles O45: after the reset ERR is 0, so that the ERR of the end tells whether a command was reserved; VALID is 0 where
no command follows, and tells of the last one otherwise (`runOfCommandsEndsWithLastResult`). -/
theorem runFromResetEndsGood : Obligations.RunFromResetEndsGood := by
  intro cs rest s hs hrest
  have hreset := step_reset hs
  obtain rfl | ⟨ds, d, rfl⟩ := cs.eq_nil_or_concat'
  · refine ⟨_, runSteps_one.trans hreset, ended_iff.mpr ⟨rfl, hrest⟩, ?_⟩
    simp [goodEnd_iff]
  · obtain ⟨t, hrun, hpend, htodo, -, herr, hvalid, -⟩ := runOfCommandsEndsWithLastResult ds d rest
      (takeReset { s with todo := commandMoves (ds ++ [d]) ++ rest }) (takeReset_pend _) (takeReset_todo _)
    have hended : t.ended = true := ended_iff.mpr ⟨hpend, by rwa [State.runTodo, htodo]⟩
    refine ⟨t, ?_, hended, ?_⟩
    · rw [runSteps_of_next hreset, List.length_append]; exact hrun
    · have hnone : t.err = false ↔ ∀ c ∈ ds ++ [d], c.op ≠ 0b11#2 := by
        rw [herr, takeReset_err, Bool.false_or, any_isReserved_eq_false_iff]
      rw [goodEnd_iff, hnone]
      refine ⟨fun ⟨_, hlegal, _⟩ => ⟨by simp, hlegal⟩, fun ⟨_, hlegal⟩ => ⟨hended, hlegal, ?_⟩⟩
      have hd : d.isReserved = false := isReserved_eq_false_iff.mpr (hlegal d (by simp))
      simp [hvalid, hd]

/-- Settles O29: after the reset nothing is pending, so that the block rests. -/
theorem resetAbandonsPendingCommand : Obligations.ResetAbandonsPendingCommand := by
  intro s c rest _ hs
  refine ⟨_, _, step_reset hs, ?_, takeReset_err _, takeReset_valid _, takeReset_pend _, rfl⟩
  obtain ⟨-, -, -, hidle⟩ := stepExecutesPendingCommand (takeReset { s with todo := .block :: rest }) rest
  exact hidle (takeReset_pend _) (takeReset_todo _)

/-- Settles O33: an issue while idle is `latch`, which clears VALID, so that the ports show no result. -/
theorem issueLatchesCommand : Obligations.IssueLatchesCommand := fun _ c _ hp hs =>
  ⟨_, step_issue hp hs, rfl, outputs_of_invalid (latch_valid c _)⟩

end Sys2Proof.Machine
end
